-- ==== Sys2Proof/Word.lean ====
section
/-! DEFINITION. The word types of EDG-HC: the manual's byte, 16-bit scalar, 32-bit command word and 7-bit slave
address (00_scope.md R7, 30_encoding.md R90). All values are unsigned. -/

namespace Sys2Proof

/-- A byte: 8 bits, bit 0 the least significant (R7). -/
abbrev Byte := BitVec 8

/-- A 16-bit unsigned scalar: RVAL, CENTURY (R27, R31). -/
abbrev Half := BitVec 16

/-- A command word (R90). -/
abbrev Word := BitVec 32

/-- A slave address: 7 bits (R10, R50). -/
abbrev SlaveAddr := BitVec 7

end Sys2Proof
end

