-- ==== Sys2Proof/Syntax.lean ====
section
/-! DEFINITION. The commands of EDG-HC, one constructor per row of spec/opcode_table.json (30_encoding.md R94, R95),
with the operand fields the command uses, as the 8-bit values that stand in the word (R92). A boolean operand stays the
byte it is ("non-zero means 1"). `initializeGpio` is the table's `initialize` (the word is a Lean command). -/

namespace Sys2Proof

inductive Instr
  -- Transport
  | busSetup (path : Byte)
  | i2cRead (slave reg len : Byte)
  | i2cWrite (slave reg len : Byte)
  -- BitOps
  | setBit (byte index value : Byte)
  | testBit (byte index : Byte)
  -- PinIndex
  | resolvePin (pin : Byte)
  | resolvePort (port baseRegister : Byte)
  -- GpioExpanderDriver, per-pin setters (OPC 0x20)
  | setPinDirection (pin value : Byte)
  | setPinPolarity (pin value : Byte)
  | setInterruptOnPin (pin value : Byte)
  | setPinInterruptDefault (pin value : Byte)
  | setPinInterruptType (pin value : Byte)
  | setPinPullup (pin value : Byte)
  | writePin (pin value : Byte)
  -- per-pin getters (OPC 0x21)
  | getPinDirection (pin : Byte)
  | getPinPolarity (pin : Byte)
  | getInterruptOnPin (pin : Byte)
  | getPinInterruptDefault (pin : Byte)
  | getPinInterruptType (pin : Byte)
  | getPinPullup (pin : Byte)
  | readPin (pin : Byte)
  -- per-port writes (OPC 0x22)
  | setPortDirection (port value : Byte)
  | setPortPolarity (port value : Byte)
  | setInterruptOnPort (port value : Byte)
  | setInterruptDefaults (port value : Byte)
  | setInterruptType (port value : Byte)
  | setPortPullups (port value : Byte)
  | writePort (port value : Byte)
  -- per-port reads (OPC 0x23)
  | getPortDirection (port : Byte)
  | getPortPolarity (port : Byte)
  | getInterruptOnPort (port : Byte)
  | getInterruptDefaults (port : Byte)
  | getInterruptType (port : Byte)
  | getPortPullups (port : Byte)
  | readInterruptStatus (port : Byte)
  | readInterruptCapture (port : Byte)
  | readPort (port : Byte)
  | readOutputLatch (port : Byte)
  -- acknowledgement and initialisation
  | acknowledgeInterrupts (port : Byte)
  | initializeGpio (busAddress resetFlag : Byte)
  -- RtcDriver
  | bcdToDecimal (byte : Byte)
  | decimalToBcd (value : Byte)
  | setDate
  | readDate
  | enableOutput
  | disableOutput
  | setFrequency (code : Byte)
  | writeMemory (address length : Byte)
  | readMemory (address length : Byte)
  | setCentury (high low : Byte)
  deriving DecidableEq, Repr

end Sys2Proof
end

