-- ==== Sys2Proof/WellFormed.lean ====
section
/-! DEFINITION. Which commands are legal: the decode-time operand checks of 30_encoding.md R92 and R97. Every other
operand value is legal at decode (R99). -/

namespace Sys2Proof

/-- Why a command word is illegal (R97). -/
inductive IllegalReason
  /-- `OPC` is not in the opcode map (R93). -/
  | unknownOpcode
  /-- `OPC` is 0x20 to 0x23 and `A` is not a base that R95 lists for it. -/
  | illegalBase
  /-- bit index above 7 (R92, decision D37). -/
  | indexAboveSeven
  /-- slave or bus address above 0x7F (R92). -/
  | addressAboveSevenBits
  /-- `len` above 63 (R92, decision D19). -/
  | lengthAboveSixtyThree
  deriving DecidableEq, Repr

/-- The decode check of a bit index: `B[7:3]` must be 0. -/
def indexLegal (index : Byte) : Bool := decide (index.toNat ≤ 7)

/-- The decode check of a slave address: `A[7]` must be 0. -/
def addressLegal (slave : Byte) : Bool := decide (slave.toNat ≤ 0x7F)

/-- The decode check of a transfer length. -/
def lenLegal (len : Byte) : Bool := decide (len.toNat ≤ 63)

/-- The operand check of R92 that a command fails, none when it fails none. -/
def Instr.operandFault : Instr → Option IllegalReason
  | .busSetup _ => none
  | .i2cRead slave _ len =>
    if !addressLegal slave then some .addressAboveSevenBits
    else if !lenLegal len then some .lengthAboveSixtyThree else none
  | .i2cWrite slave _ len =>
    if !addressLegal slave then some .addressAboveSevenBits
    else if !lenLegal len then some .lengthAboveSixtyThree else none
  | .setBit _ index _ => if indexLegal index then none else some .indexAboveSeven
  | .testBit _ index => if indexLegal index then none else some .indexAboveSeven
  | .resolvePin _ => none
  | .resolvePort _ _ => none
  | .setPinDirection _ _ => none
  | .setPinPolarity _ _ => none
  | .setInterruptOnPin _ _ => none
  | .setPinInterruptDefault _ _ => none
  | .setPinInterruptType _ _ => none
  | .setPinPullup _ _ => none
  | .writePin _ _ => none
  | .getPinDirection _ => none
  | .getPinPolarity _ => none
  | .getInterruptOnPin _ => none
  | .getPinInterruptDefault _ => none
  | .getPinInterruptType _ => none
  | .getPinPullup _ => none
  | .readPin _ => none
  | .setPortDirection _ _ => none
  | .setPortPolarity _ _ => none
  | .setInterruptOnPort _ _ => none
  | .setInterruptDefaults _ _ => none
  | .setInterruptType _ _ => none
  | .setPortPullups _ _ => none
  | .writePort _ _ => none
  | .getPortDirection _ => none
  | .getPortPolarity _ => none
  | .getInterruptOnPort _ => none
  | .getInterruptDefaults _ => none
  | .getInterruptType _ => none
  | .getPortPullups _ => none
  | .readInterruptStatus _ => none
  | .readInterruptCapture _ => none
  | .readPort _ => none
  | .readOutputLatch _ => none
  | .acknowledgeInterrupts _ => none
  | .initializeGpio busAddress _ => if addressLegal busAddress then none else some .addressAboveSevenBits
  | .bcdToDecimal _ => none
  | .decimalToBcd _ => none
  | .setDate => none
  | .readDate => none
  | .enableOutput => none
  | .disableOutput => none
  | .setFrequency _ => none
  | .writeMemory _ _ => none
  | .readMemory _ _ => none
  | .setCentury _ _ => none

/-- A command is well formed when it passes every decode check. -/
def Instr.wf (i : Instr) : Bool := i.operandFault.isNone

end Sys2Proof
end

