-- ==== Sys2Proof/Decode.lean ====
section
/-! DEFINITION. The decoder of 30_encoding.md, total on any 32-bit word and rejecting by name, and after it the encoder.
A word has the fields OPC, A, B, C (R90); R94 gives the commands selected by OPC alone, R95 those selected by OPC and
A. Fields a command does not use are ignored by the decoder and written as zero by the encoder. -/

namespace Sys2Proof

/-- `W[31:24]`. -/
def fieldOpc (w : Word) : Byte := w.extractLsb' 24 8
/-- `W[23:16]`. -/
def fieldA (w : Word) : Byte := w.extractLsb' 16 8
/-- `W[15:8]`. -/
def fieldB (w : Word) : Byte := w.extractLsb' 8 8
/-- `W[7:0]`. -/
def fieldC (w : Word) : Byte := w.extractLsb' 0 8

/-- The word with these four fields (R90). -/
def packWord (opc a b c : Byte) : Word := opc ++ a ++ b ++ c

/-- A command whose operands pass the decode checks of R92, or the reason why the word is illegal (R97). -/
def checkOperands (i : Instr) : Except IllegalReason Instr :=
  match i.operandFault with
  | none => .ok i
  | some r => .error r

/-- OPC 0x20, per-pin set: `A` is the base, `B` the pin, `C` the value (R95). -/
def decodePinSet (a b c : Byte) : Except IllegalReason Instr :=
  match a.toNat with
  | 0x00 => .ok (.setPinDirection b c)
  | 0x02 => .ok (.setPinPolarity b c)
  | 0x04 => .ok (.setInterruptOnPin b c)
  | 0x06 => .ok (.setPinInterruptDefault b c)
  | 0x08 => .ok (.setPinInterruptType b c)
  | 0x0C => .ok (.setPinPullup b c)
  | 0x12 => .ok (.writePin b c)
  | _ => .error .illegalBase

/-- OPC 0x21, per-pin get: `A` is the base, `B` the pin (R95). -/
def decodePinGet (a b : Byte) : Except IllegalReason Instr :=
  match a.toNat with
  | 0x00 => .ok (.getPinDirection b)
  | 0x02 => .ok (.getPinPolarity b)
  | 0x04 => .ok (.getInterruptOnPin b)
  | 0x06 => .ok (.getPinInterruptDefault b)
  | 0x08 => .ok (.getPinInterruptType b)
  | 0x0C => .ok (.getPinPullup b)
  | 0x12 => .ok (.readPin b)
  | _ => .error .illegalBase

/-- OPC 0x22, per-port write: `A` is the base, `B` the port, `C` the value (R95). -/
def decodePortWrite (a b c : Byte) : Except IllegalReason Instr :=
  match a.toNat with
  | 0x00 => .ok (.setPortDirection b c)
  | 0x02 => .ok (.setPortPolarity b c)
  | 0x04 => .ok (.setInterruptOnPort b c)
  | 0x06 => .ok (.setInterruptDefaults b c)
  | 0x08 => .ok (.setInterruptType b c)
  | 0x0C => .ok (.setPortPullups b c)
  | 0x12 => .ok (.writePort b c)
  | _ => .error .illegalBase

/-- OPC 0x23, per-port read: `A` is the base, `B` the port (R95). -/
def decodePortRead (a b : Byte) : Except IllegalReason Instr :=
  match a.toNat with
  | 0x00 => .ok (.getPortDirection b)
  | 0x02 => .ok (.getPortPolarity b)
  | 0x04 => .ok (.getInterruptOnPort b)
  | 0x06 => .ok (.getInterruptDefaults b)
  | 0x08 => .ok (.getInterruptType b)
  | 0x0C => .ok (.getPortPullups b)
  | 0x0E => .ok (.readInterruptStatus b)
  | 0x10 => .ok (.readInterruptCapture b)
  | 0x12 => .ok (.readPort b)
  | 0x14 => .ok (.readOutputLatch b)
  | _ => .error .illegalBase

/-- The decoder: every word is exactly one command or illegal (R96, R97). -/
def decode (w : Word) : Except IllegalReason Instr :=
  let a := fieldA w
  let b := fieldB w
  let c := fieldC w
  match (fieldOpc w).toNat with
  | 0x01 => .ok (.busSetup a)
  | 0x02 => checkOperands (.i2cRead a b c)
  | 0x03 => checkOperands (.i2cWrite a b c)
  | 0x10 => checkOperands (.setBit a b c)
  | 0x11 => checkOperands (.testBit a b)
  | 0x12 => .ok (.resolvePin a)
  | 0x13 => .ok (.resolvePort a b)
  | 0x20 => decodePinSet a b c
  | 0x21 => decodePinGet a b
  | 0x22 => decodePortWrite a b c
  | 0x23 => decodePortRead a b
  | 0x24 => .ok (.acknowledgeInterrupts b)
  | 0x25 => checkOperands (.initializeGpio a c)
  | 0x30 => .ok (.bcdToDecimal a)
  | 0x31 => .ok (.decimalToBcd a)
  | 0x32 => .ok .setDate
  | 0x33 => .ok .readDate
  | 0x34 => .ok .enableOutput
  | 0x35 => .ok .disableOutput
  | 0x36 => .ok (.setFrequency a)
  | 0x37 => .ok (.writeMemory a b)
  | 0x38 => .ok (.readMemory a b)
  | 0x39 => .ok (.setCentury b c)
  | _ => .error .unknownOpcode

/-- The word of a command, unused fields zero (R94, R95). -/
def encode : Instr → Word
  | .busSetup path => packWord 0x01#8 path 0x00#8 0x00#8
  | .i2cRead slave reg len => packWord 0x02#8 slave reg len
  | .i2cWrite slave reg len => packWord 0x03#8 slave reg len
  | .setBit byte index value => packWord 0x10#8 byte index value
  | .testBit byte index => packWord 0x11#8 byte index 0x00#8
  | .resolvePin pin => packWord 0x12#8 pin 0x00#8 0x00#8
  | .resolvePort port base => packWord 0x13#8 port base 0x00#8
  | .setPinDirection pin value => packWord 0x20#8 0x00#8 pin value
  | .setPinPolarity pin value => packWord 0x20#8 0x02#8 pin value
  | .setInterruptOnPin pin value => packWord 0x20#8 0x04#8 pin value
  | .setPinInterruptDefault pin value => packWord 0x20#8 0x06#8 pin value
  | .setPinInterruptType pin value => packWord 0x20#8 0x08#8 pin value
  | .setPinPullup pin value => packWord 0x20#8 0x0C#8 pin value
  | .writePin pin value => packWord 0x20#8 0x12#8 pin value
  | .getPinDirection pin => packWord 0x21#8 0x00#8 pin 0x00#8
  | .getPinPolarity pin => packWord 0x21#8 0x02#8 pin 0x00#8
  | .getInterruptOnPin pin => packWord 0x21#8 0x04#8 pin 0x00#8
  | .getPinInterruptDefault pin => packWord 0x21#8 0x06#8 pin 0x00#8
  | .getPinInterruptType pin => packWord 0x21#8 0x08#8 pin 0x00#8
  | .getPinPullup pin => packWord 0x21#8 0x0C#8 pin 0x00#8
  | .readPin pin => packWord 0x21#8 0x12#8 pin 0x00#8
  | .setPortDirection port value => packWord 0x22#8 0x00#8 port value
  | .setPortPolarity port value => packWord 0x22#8 0x02#8 port value
  | .setInterruptOnPort port value => packWord 0x22#8 0x04#8 port value
  | .setInterruptDefaults port value => packWord 0x22#8 0x06#8 port value
  | .setInterruptType port value => packWord 0x22#8 0x08#8 port value
  | .setPortPullups port value => packWord 0x22#8 0x0C#8 port value
  | .writePort port value => packWord 0x22#8 0x12#8 port value
  | .getPortDirection port => packWord 0x23#8 0x00#8 port 0x00#8
  | .getPortPolarity port => packWord 0x23#8 0x02#8 port 0x00#8
  | .getInterruptOnPort port => packWord 0x23#8 0x04#8 port 0x00#8
  | .getInterruptDefaults port => packWord 0x23#8 0x06#8 port 0x00#8
  | .getInterruptType port => packWord 0x23#8 0x08#8 port 0x00#8
  | .getPortPullups port => packWord 0x23#8 0x0C#8 port 0x00#8
  | .readInterruptStatus port => packWord 0x23#8 0x0E#8 port 0x00#8
  | .readInterruptCapture port => packWord 0x23#8 0x10#8 port 0x00#8
  | .readPort port => packWord 0x23#8 0x12#8 port 0x00#8
  | .readOutputLatch port => packWord 0x23#8 0x14#8 port 0x00#8
  | .acknowledgeInterrupts port => packWord 0x24#8 0x00#8 port 0x00#8
  | .initializeGpio busAddress resetFlag => packWord 0x25#8 busAddress 0x00#8 resetFlag
  | .bcdToDecimal byte => packWord 0x30#8 byte 0x00#8 0x00#8
  | .decimalToBcd value => packWord 0x31#8 value 0x00#8 0x00#8
  | .setDate => packWord 0x32#8 0x00#8 0x00#8 0x00#8
  | .readDate => packWord 0x33#8 0x00#8 0x00#8 0x00#8
  | .enableOutput => packWord 0x34#8 0x00#8 0x00#8 0x00#8
  | .disableOutput => packWord 0x35#8 0x00#8 0x00#8 0x00#8
  | .setFrequency code => packWord 0x36#8 code 0x00#8 0x00#8
  | .writeMemory address length => packWord 0x37#8 address length 0x00#8
  | .readMemory address length => packWord 0x38#8 address length 0x00#8
  | .setCentury high low => packWord 0x39#8 0x00#8 high low

/-- A row of the opcode table: a word `w` selects it when `w &&& mask = bits` (R96). -/
structure OpcodeRow where
  mnemonic : String
  bits : Word
  mask : Word
  deriving DecidableEq, Repr

/-- Rows of the opcode table: Transport (R94). -/
def transportRows : List OpcodeRow :=
  [ ⟨"busSetup", 0x01000000#32, 0xFF000000#32⟩,
    ⟨"i2cRead", 0x02000000#32, 0xFF000000#32⟩,
    ⟨"i2cWrite", 0x03000000#32, 0xFF000000#32⟩ ]

/-- Rows of the opcode table: BitOps and PinIndex (R94). -/
def pureRows : List OpcodeRow :=
  [ ⟨"setBit", 0x10000000#32, 0xFF000000#32⟩,
    ⟨"testBit", 0x11000000#32, 0xFF000000#32⟩,
    ⟨"resolvePin", 0x12000000#32, 0xFF000000#32⟩,
    ⟨"resolvePort", 0x13000000#32, 0xFF000000#32⟩ ]

/-- Rows of the opcode table: per-pin setters (R95). -/
def pinSetRows : List OpcodeRow :=
  [ ⟨"setPinDirection", 0x20000000#32, 0xFFFF0000#32⟩,
    ⟨"setPinPolarity", 0x20020000#32, 0xFFFF0000#32⟩,
    ⟨"setInterruptOnPin", 0x20040000#32, 0xFFFF0000#32⟩,
    ⟨"setPinInterruptDefault", 0x20060000#32, 0xFFFF0000#32⟩,
    ⟨"setPinInterruptType", 0x20080000#32, 0xFFFF0000#32⟩,
    ⟨"setPinPullup", 0x200C0000#32, 0xFFFF0000#32⟩,
    ⟨"writePin", 0x20120000#32, 0xFFFF0000#32⟩ ]

/-- Rows of the opcode table: per-pin getters (R95). -/
def pinGetRows : List OpcodeRow :=
  [ ⟨"getPinDirection", 0x21000000#32, 0xFFFF0000#32⟩,
    ⟨"getPinPolarity", 0x21020000#32, 0xFFFF0000#32⟩,
    ⟨"getInterruptOnPin", 0x21040000#32, 0xFFFF0000#32⟩,
    ⟨"getPinInterruptDefault", 0x21060000#32, 0xFFFF0000#32⟩,
    ⟨"getPinInterruptType", 0x21080000#32, 0xFFFF0000#32⟩,
    ⟨"getPinPullup", 0x210C0000#32, 0xFFFF0000#32⟩,
    ⟨"readPin", 0x21120000#32, 0xFFFF0000#32⟩ ]

/-- Rows of the opcode table: per-port writes (R95). -/
def portWriteRows : List OpcodeRow :=
  [ ⟨"setPortDirection", 0x22000000#32, 0xFFFF0000#32⟩,
    ⟨"setPortPolarity", 0x22020000#32, 0xFFFF0000#32⟩,
    ⟨"setInterruptOnPort", 0x22040000#32, 0xFFFF0000#32⟩,
    ⟨"setInterruptDefaults", 0x22060000#32, 0xFFFF0000#32⟩,
    ⟨"setInterruptType", 0x22080000#32, 0xFFFF0000#32⟩,
    ⟨"setPortPullups", 0x220C0000#32, 0xFFFF0000#32⟩,
    ⟨"writePort", 0x22120000#32, 0xFFFF0000#32⟩ ]

/-- Rows of the opcode table: per-port reads (R95). -/
def portReadRows : List OpcodeRow :=
  [ ⟨"getPortDirection", 0x23000000#32, 0xFFFF0000#32⟩,
    ⟨"getPortPolarity", 0x23020000#32, 0xFFFF0000#32⟩,
    ⟨"getInterruptOnPort", 0x23040000#32, 0xFFFF0000#32⟩,
    ⟨"getInterruptDefaults", 0x23060000#32, 0xFFFF0000#32⟩,
    ⟨"getInterruptType", 0x23080000#32, 0xFFFF0000#32⟩,
    ⟨"getPortPullups", 0x230C0000#32, 0xFFFF0000#32⟩,
    ⟨"readInterruptStatus", 0x230E0000#32, 0xFFFF0000#32⟩,
    ⟨"readInterruptCapture", 0x23100000#32, 0xFFFF0000#32⟩,
    ⟨"readPort", 0x23120000#32, 0xFFFF0000#32⟩,
    ⟨"readOutputLatch", 0x23140000#32, 0xFFFF0000#32⟩ ]

/-- Rows of the opcode table: acknowledgement and initialisation (R94). -/
def gpioRows : List OpcodeRow :=
  [ ⟨"acknowledgeInterrupts", 0x24000000#32, 0xFF000000#32⟩,
    ⟨"initialize", 0x25000000#32, 0xFF000000#32⟩ ]

/-- Rows of the opcode table: RtcDriver (R94). -/
def rtcRows : List OpcodeRow :=
  [ ⟨"bcdToDecimal", 0x30000000#32, 0xFF000000#32⟩,
    ⟨"decimalToBcd", 0x31000000#32, 0xFF000000#32⟩,
    ⟨"setDate", 0x32000000#32, 0xFF000000#32⟩,
    ⟨"readDate", 0x33000000#32, 0xFF000000#32⟩,
    ⟨"enableOutput", 0x34000000#32, 0xFF000000#32⟩,
    ⟨"disableOutput", 0x35000000#32, 0xFF000000#32⟩,
    ⟨"setFrequency", 0x36000000#32, 0xFF000000#32⟩,
    ⟨"writeMemory", 0x37000000#32, 0xFF000000#32⟩,
    ⟨"readMemory", 0x38000000#32, 0xFF000000#32⟩,
    ⟨"setCentury", 0x39000000#32, 0xFF000000#32⟩ ]

/-- The opcode table (spec/opcode_table.json, R104: 50 rows). -/
def opcodeTable : List OpcodeRow :=
  transportRows ++ pureRows ++ pinSetRows ++ pinGetRows ++ portWriteRows ++ portReadRows ++ gpioRows ++ rtcRows

/-- The mnemonic of a command, as the opcode table spells it. -/
def Instr.mnemonic : Instr → String
  | .busSetup _ => "busSetup"
  | .i2cRead _ _ _ => "i2cRead"
  | .i2cWrite _ _ _ => "i2cWrite"
  | .setBit _ _ _ => "setBit"
  | .testBit _ _ => "testBit"
  | .resolvePin _ => "resolvePin"
  | .resolvePort _ _ => "resolvePort"
  | .setPinDirection _ _ => "setPinDirection"
  | .setPinPolarity _ _ => "setPinPolarity"
  | .setInterruptOnPin _ _ => "setInterruptOnPin"
  | .setPinInterruptDefault _ _ => "setPinInterruptDefault"
  | .setPinInterruptType _ _ => "setPinInterruptType"
  | .setPinPullup _ _ => "setPinPullup"
  | .writePin _ _ => "writePin"
  | .getPinDirection _ => "getPinDirection"
  | .getPinPolarity _ => "getPinPolarity"
  | .getInterruptOnPin _ => "getInterruptOnPin"
  | .getPinInterruptDefault _ => "getPinInterruptDefault"
  | .getPinInterruptType _ => "getPinInterruptType"
  | .getPinPullup _ => "getPinPullup"
  | .readPin _ => "readPin"
  | .setPortDirection _ _ => "setPortDirection"
  | .setPortPolarity _ _ => "setPortPolarity"
  | .setInterruptOnPort _ _ => "setInterruptOnPort"
  | .setInterruptDefaults _ _ => "setInterruptDefaults"
  | .setInterruptType _ _ => "setInterruptType"
  | .setPortPullups _ _ => "setPortPullups"
  | .writePort _ _ => "writePort"
  | .getPortDirection _ => "getPortDirection"
  | .getPortPolarity _ => "getPortPolarity"
  | .getInterruptOnPort _ => "getInterruptOnPort"
  | .getInterruptDefaults _ => "getInterruptDefaults"
  | .getInterruptType _ => "getInterruptType"
  | .getPortPullups _ => "getPortPullups"
  | .readInterruptStatus _ => "readInterruptStatus"
  | .readInterruptCapture _ => "readInterruptCapture"
  | .readPort _ => "readPort"
  | .readOutputLatch _ => "readOutputLatch"
  | .acknowledgeInterrupts _ => "acknowledgeInterrupts"
  | .initializeGpio _ _ => "initialize"
  | .bcdToDecimal _ => "bcdToDecimal"
  | .decimalToBcd _ => "decimalToBcd"
  | .setDate => "setDate"
  | .readDate => "readDate"
  | .enableOutput => "enableOutput"
  | .disableOutput => "disableOutput"
  | .setFrequency _ => "setFrequency"
  | .writeMemory _ _ => "writeMemory"
  | .readMemory _ _ => "readMemory"
  | .setCentury _ _ => "setCentury"

/-- The command the decoder reads from an instruction whose bits are `w`, numbered as the opcode table numbers them: a
command is one 32-bit word, written whole to CMD (R90, R72), so bits above the row's `nbits` are zero. -/
def decodeTableWord (nbits w : Nat) : Option Instr :=
  match decode (BitVec.ofNat 32 (w % 2 ^ nbits)) with
  | .ok i => some i
  | .error _ => none

end Sys2Proof
end

