-- ==== Sys2Proof/Config.lean ====
section
/-! DEFINITION. What an implementation of EDG-HC fixes (00_scope.md R6) and the free values of the model: what the
spec leaves OPEN or unspecified is an uninterpreted constant here (no body), so no proof can see its value. -/

namespace Sys2Proof

/-- `SHORT_WRITE_EFFECT` (R6, 20_memory.md R60, decision D16): what a slave has taken when a write transfer reports
fewer bytes than asked. -/
inductive ShortWriteEffect
  | exactPrefix
  | anyPrefix
  deriving DecidableEq, Repr

/-- One answer of the bus environment (20_memory.md R51 to R54, section 2: "the answer is a free input of the step").
Every value gives a legal answer to every call, and every legal answer is given by some value (log 1):
`BusOpen` and `BusBind` look at `ok`; `BusWrite(buf)` reports the smaller of `count` and the length of `buf`, and a
slave under `any_prefix` has taken the smaller of `taken` and that length; `BusRead(n)` returns the first `n` bytes of
`data` (all of it when it is shorter). `irqA`, `irqB` say whether the expander's own interrupt logic latched a condition
on port A, port B since the last call (R64), and stand for any value of a latch that the spec leaves open (log 7);
`pointer` is the register pointer a device is left with where the spec leaves it open (log 14). -/
structure Draw where
  ok      : Bool
  count   : Nat
  taken   : Nat
  data    : List Byte
  irqA    : Bool
  irqB    : Bool
  pointer : Byte
  deriving DecidableEq, Repr, Inhabited

namespace Config

/-! ## Fixed values (R6) -/

/-- `RTC_ADDR`: the RTC's slave address. -/
def rtcAddr : SlaveAddr := 0x68#7
/-- `GPIO_ADDR_DEFAULT`: reset value of GPIOADDR. -/
def gpioAddrDefault : SlaveAddr := 0x20#7
/-- `GPIO_ADDR_ALT`: the documented board variant. -/
def gpioAddrAlt : SlaveAddr := 0x24#7
/-- `RTCCTRL_DEFAULT`: reset value of the control-register shadow. -/
def rtcCtrlDefault : Byte := 0x03#8
/-- `CENTURY_DEFAULT`. -/
def centuryDefault : Half := 2000#16
/-- `MEM_LO`: first register of the RTC memory window. -/
def memLo : Nat := 0x08
/-- `MEM_HI`: last register of the RTC memory window. -/
def memHi : Nat := 0x3F
/-- `MEM_LIMIT`: right-hand side of the range check. -/
def memLimit : Nat := 0x3F
/-- `DBUF_SIZE`: bytes in the mailbox. -/
def dbufSize : Nat := 64
/-- Default of `DIR_ALL_INPUT`. PRESUMED (GK3), log 16. -/
def dirAllInputDefault : Byte := 0xFF#8
/-- Default of `SQWE_BIT`. PRESUMED (GK2), log 16. -/
def sqweBitDefault : Fin 8 := 4
/-- Default of `RS0_BIT`. PRESUMED (GK2), log 16. -/
def rs0BitDefault : Fin 8 := 0
/-- Default of `RS1_BIT`. PRESUMED (GK2), log 16. -/
def rs1BitDefault : Fin 8 := 1

/-! ## Open parameters (R6, decisions D11 and D23; log 2) -/

/-- `MAX_RETRIES`: OPEN. -/
opaque maxRetries : Nat
/-- `RETRY_DELAY`: OPEN, a duration without a unit. -/
opaque retryDelay : Nat
/-- `IOCON_INIT`: OPEN. -/
opaque ioconInit : Byte

/-! ## Free values -/

/-- The environment's answer to the n-th call that nothing in State has fixed (R51 to R54; log 1). -/
opaque draw : Nat → Draw
/-- Byte `i` of DBUF after a reset, one family of values per reset (R29: unspecified; log 3). -/
opaque dbufByte : Nat → Nat → Byte
/-- The RTC's register pointer after reset (R36: unspecified to the block; log 6). -/
opaque rtcPointer : Byte
/-- The GPIO expander's register pointer after reset (R36; log 6). -/
opaque gpioPointer : Byte
/-- Whether port A of the expander has a latched interrupt condition after reset (R36, R63; log 6). -/
opaque latchA : Bool
/-- The same of port B. -/
opaque latchB : Bool

end Config
end Sys2Proof
end

