-- ==== Sys2Proof/Machine/State.lean ====
section
/-! DEFINITION. The state of the machine: the block's registers and event history (10_state.md, 20_memory.md R57), the
slave devices as far as the spec gives them (20_memory.md R58 to R63), the block's parameters (00_scope.md R6), the
host's remaining moves (70_reset_and_hazards.md R317) and the environment's answers (log 1). Plain data throughout. -/

namespace Sys2Proof.Machine

/-- `BUSPATH` (R23): `NONE`, or `PATH(t)` with `t` an opaque 8-bit token. -/
inductive BusPath
  | noPath
  | path (t : Byte)
  deriving DecidableEq, Repr

/-- `HANDLE` (R28): the Bus Handle. -/
inductive Handle
  | closed
  | opened
  | bound (a : SlaveAddr)
  deriving DecidableEq, Repr

/-- One call to the bus environment with its arguments and its answer (R57). -/
inductive Event
  /-- `Open(path, ok|fail)`. -/
  | busOpen (path : BusPath) (ok : Bool)
  /-- `Bind(a, ok|fail)`. -/
  | busBind (a : SlaveAddr) (ok : Bool)
  /-- `Write(buf, k)`: `k` bytes reported moved. -/
  | busWrite (buf : List Byte) (k : Nat)
  /-- `Read(n, k, data)`: `n` bytes asked for, `k` returned. -/
  | busRead (n k : Nat) (data : List Byte)
  /-- `Close`. -/
  | busClose
  /-- `Sleep(d)`. -/
  | sleep (d : Nat)
  deriving DecidableEq, Repr

/-- One move of the host, made while the block is idle (R29, R33, R300; log 10). -/
inductive HostMove
  /-- a host write of one mailbox byte. -/
  | storeDbuf (index : Fin 64) (value : Byte)
  /-- a host write of a command word to CMD. -/
  | writeCmd (word : Word)
  /-- process start, the block's reset (R300, R301; log 12). -/
  | reset
  deriving DecidableEq, Repr

/-- What the bytes of a `BusRead` are (R62; log 8). -/
inductive Oracle
  /-- every byte is any byte: the oracle claims are stated against. -/
  | unconstrained
  /-- "Between the two": the RTC memory window and the expander's configuration-type registers return the last byte
  written to them, every other register any byte. -/
  | perRegister
  /-- each device is an array of 256 bytes. -/
  | registerBlock
  deriving DecidableEq, Repr

/-- Where the GPIO expander answers (R58; log 9). -/
inductive Board
  | default20
  | variant24
  deriving DecidableEq, Repr

/-- The parameters of the block that are not fixed by R6 (log 2). No step changes them. -/
structure Params where
  maxRetries          : Nat
  retryDelay          : Nat
  ioconInit           : Byte
  dirAllInput         : Byte
  sqweBit             : Fin 8
  rs0Bit              : Fin 8
  rs1Bit              : Fin 8
  shortWriteEffect    : ShortWriteEffect
  memLowBoundEnforced : Bool
  deriving DecidableEq, Repr

/-- Device registers: (slave times 256 plus register, byte) pairs, addresses strictly rising. A listed register is known
to hold that byte; an unlisted register holds no known byte (log 5). -/
abbrev Memory := List Host.Cell

/-- The far side of the six bus calls: devices and answers (R58 to R64). -/
structure Env where
  /-- answers already chosen, oldest first; when empty the next one is `Config.draw drawn` (log 1). -/
  script  : List Draw
  /-- free values used so far (log 1). -/
  drawn   : Nat
  oracle  : Oracle
  board   : Board
  /-- bytes the device registers are known to hold (R60, R62; log 5). -/
  devRegs : Memory
  /-- register pointer of the RTC (R35, R59 to R61). -/
  rtcPtr  : Byte
  /-- register pointer of the GPIO expander. -/
  gpioPtr : Byte
  /-- a latched interrupt condition of port A, of port B (R63; log 7). -/
  latchA  : Bool
  latchB  : Bool
  deriving DecidableEq, Repr

end Sys2Proof.Machine

namespace Sys2Proof.Machine

/-- The whole machine. -/
structure State where
  /-- BUSPATH (R23). -/
  busPath      : BusPath
  /-- GPIOADDR (R24). -/
  gpioAddr     : SlaveAddr
  /-- GPIORESETPOL (R25). -/
  gpioResetPol : Bool
  /-- RTCCTRL, the shadow of the RTC control register (R26). -/
  rtcCtrl      : Byte
  /-- CENTURY (R27). -/
  century      : Half
  /-- HANDLE (R28). -/
  handle       : Handle
  /-- DBUF[0..63] (R29). -/
  dbuf         : Vector Byte 64
  /-- STATUS (R30). -/
  status       : Byte
  /-- RVAL (R31). -/
  rval         : Half
  /-- RLEN (R32). -/
  rlen         : Byte
  /-- CMD: the word last written to the command port (R33). -/
  cmd          : Word
  /-- BUSY (R33). -/
  busy         : Bool
  /-- the event history, oldest first (R57). -/
  history      : List Event
  /-- the host's remaining moves, next first (R317; log 10). -/
  host         : List HostMove
  /-- parameters (R6; log 2). -/
  params       : Params
  /-- devices and environment answers. -/
  env          : Env
  deriving DecidableEq, Repr

/-- Why a step stops. -/
inductive Fault
  /-- Raised by `step` alone, when it begins with BUSY = 1: a host move then is outside the block's contract, "a model
  gives the host no such move" (R33, R309). No run reaches it, since a step is a whole command (log 11). Safe: nothing
  is claimed of what follows. -/
  | hostMoveWhileBusy
  deriving DecidableEq, Repr

/-- Why an instruction is refused. -/
inductive Refusal
  /-- Raised by `exec`'s arm of a command that has no meaning yet; safe. No arm raises it. -/
  | notModelled (mnemonic : String)
  deriving DecidableEq, Repr

/-- The parameters of the machine: R6's values, and the uninterpreted constants of Config where R6 says OPEN (log 2). -/
def Params.reset : Params where
  maxRetries          := Config.maxRetries
  retryDelay          := Config.retryDelay
  ioconInit           := Config.ioconInit
  dirAllInput         := Config.dirAllInputDefault
  sqweBit             := Config.sqweBitDefault
  rs0Bit              := Config.rs0BitDefault
  rs1Bit              := Config.rs1BitDefault
  shortWriteEffect    := .exactPrefix
  memLowBoundEnforced := true

/-- The environment when the block starts: no device register known, pointers and latches free values (R36, R301;
logs 5 to 9). -/
def Env.reset : Env where
  script  := []
  drawn   := 0
  oracle  := .unconstrained
  board   := .default20
  devRegs := []
  rtcPtr  := Config.rtcPointer
  gpioPtr := Config.gpioPointer
  latchA  := Config.latchA
  latchB  := Config.latchB

/-- DBUF after the reset number `n`: free values (R29; log 3). -/
def unspecifiedDbuf (n : Nat) : Vector Byte 64 := Vector.ofFn fun i => Config.dbufByte n i.val

/-- The machine right after reset (R36, R300). -/
def State.reset : State where
  busPath      := .noPath
  gpioAddr     := Config.gpioAddrDefault
  gpioResetPol := false
  rtcCtrl      := Config.rtcCtrlDefault
  century      := Config.centuryDefault
  handle       := .closed
  dbuf         := unspecifiedDbuf 0
  status       := 0x00#8
  rval         := 0x0000#16
  rlen         := 0x00#8
  cmd          := 0x00000000#32
  busy         := false
  history      := []
  host         := []
  params       := Params.reset
  env          := Env.reset

end Sys2Proof.Machine
end

