-- ==== Sys2Proof/Machine/Flags.lean ====
section
/-! DEFINITION. The block has no condition codes (10_state.md R22): the only status a command leaves is STATUS with
RLEN. This file gives the error kinds, their codes and what each records (60_exceptions.md R270, R272), and the result
type of a piece of a command: it went on, or it failed with a kind. -/

namespace Sys2Proof.Machine

/-- The error kinds (R270). `shortTransfer` carries the count the underlying transfer reported and, for a data read,
the bytes received (R133, R272). -/
inductive Failure
  | busUnavailable
  | shortTransfer (actual : Nat) (received : List Byte)
  | invalidPin
  | invalidPort
  | memoryRangeError
  | illegalCommand
  deriving DecidableEq, Repr

/-- STATUS of a command that completed (R270). -/
def statusOk : Byte := 0x00#8

/-- STATUS codes of the error kinds (R270). -/
def Failure.code : Failure → Byte
  | .busUnavailable    => 0x01#8
  | .shortTransfer _ _ => 0x02#8
  | .invalidPin        => 0x03#8
  | .invalidPort       => 0x04#8
  | .memoryRangeError  => 0x05#8
  | .illegalCommand    => 0xFF#8

/-- What the kind records in RLEN: the actual count for `ShortTransfer`; otherwise RLEN stays as it is (R272, R276). -/
def Failure.rlenAfter (rlen : Byte) : Failure → Byte
  | .shortTransfer actual _ => BitVec.ofNat 8 actual
  | .busUnavailable         => rlen
  | .invalidPin             => rlen
  | .invalidPort            => rlen
  | .memoryRangeError       => rlen
  | .illegalCommand         => rlen

/-- A piece of a command: it went on with a value, or it met a failure; with the state it left either way. -/
inductive Res (α : Type) where
  | ok (a : α) (s : State)
  | err (f : Failure) (s : State)
  deriving Repr

/-- The state a piece of a command left. -/
def Res.state {α : Type} : Res α → State
  | .ok _ s  => s
  | .err _ s => s

/-- Go on after a success; keep a failure ("the first failure", R278). -/
def Res.andThen {α β : Type} (r : Res α) (f : α → State → Res β) : Res β :=
  match r with
  | .ok a s   => f a s
  | .err e s  => .err e s

/-- Change the state a piece left, in both cases. -/
def Res.mapState {α : Type} (r : Res α) (g : State → State) : Res α :=
  match r with
  | .ok a s  => .ok a (g s)
  | .err e s => .err e (g s)

end Sys2Proof.Machine
end

