-- ==== Sys2Proof/Machine/RegisterMap.lean ====
section
/-! DEFINITION. RegisterMap (00_scope.md R3): "static enumeration of addressable registers for each peripheral class"
(20_memory.md R65 to R70), and where the two devices answer (R58). -/

namespace Sys2Proof.Machine

/-- The register pairs of the GPIO expander (R68), each at a base (port A) and base + 1 (port B) (R69). -/
inductive GpioPair
  | direction
  | polarity
  | interruptEnable
  | interruptDefault
  | interruptControl
  | pullUp
  | interruptFlag
  | interruptCapture
  | portValue
  | outputLatch
  deriving DecidableEq, Repr

/-- The base address of a pair: its port A register (R68). -/
def GpioPair.base : GpioPair → Byte
  | .direction        => 0x00#8
  | .polarity         => 0x02#8
  | .interruptEnable  => 0x04#8
  | .interruptDefault => 0x06#8
  | .interruptControl => 0x08#8
  | .pullUp           => 0x0C#8
  | .interruptFlag    => 0x0E#8
  | .interruptCapture => 0x10#8
  | .portValue        => 0x12#8
  | .outputLatch      => 0x14#8

/-- The chip configuration register (R68), which has no port B partner (R70). -/
def chipConfiguration : Byte := 0x0A#8

/-- The RTC registers a driver command starts at (R65). -/
inductive RtcReg
  | seconds
  | control
  deriving DecidableEq, Repr

/-- Addresses of the RTC registers (R65). -/
def RtcReg.addr : RtcReg → Byte
  | .seconds => 0x00#8
  | .control => 0x07#8

/-- The two slave devices (R58). -/
inductive Device
  | rtc
  | gpio
  deriving DecidableEq, Repr

/-- The slave address the GPIO expander answers at (R58). -/
def Board.gpioSlave : Board → SlaveAddr
  | .default20 => Config.gpioAddrDefault
  | .variant24 => Config.gpioAddrAlt

/-- Which device answers at a slave address, if one does (R58). The same two devices answer whatever path token the node
was opened with: which physical bus a token names is the environment's (R23), and that every token names the one bus is the
model's choice (log 22). -/
def deviceAt (b : Board) (slave : SlaveAddr) : Option Device :=
  if slave = Config.rtcAddr then some .rtc
  else if slave = b.gpioSlave then some .gpio
  else none

/-- The key of a device register in `Env.devRegs` (R50: the pair of slave and register address). -/
def regKey (slave : SlaveAddr) (reg : Nat) : Nat := slave.toNat * 256 + reg % 256

/-- A register the source lists for the GPIO expander (R68, R70). -/
def gpioListed (reg : Nat) : Bool := decide (reg ≤ 0x15) && decide (reg ≠ 0x0B)

/-- The expander's configuration-type registers, which keep the last byte written (R62, GK4): direction, polarity,
interrupt-enable, interrupt-default, interrupt-control, pull-up. -/
def gpioConfigType (reg : Nat) : Bool :=
  decide (reg ≤ 0x09) || decide (reg = 0x0C) || decide (reg = 0x0D)

/-- The RTC memory window (R65, R67). -/
def inRtcWindow (reg : Nat) : Bool := decide (Config.memLo ≤ reg) && decide (reg ≤ Config.memHi)

end Sys2Proof.Machine
end

