-- ==== Sys2Proof/Machine/Operands.lean ====
section
/-! DEFINITION. Operand forms of a command (30_encoding.md R92) and the pure functions commands are built from: BitOps
(40_bitops.md), PinIndex (42_pinindex.md), the BCD codec, the calendar layout and the memory range check (44_rtc.md). -/

namespace Sys2Proof.Machine

/-! ## Operand forms (R92) -/

/-- A boolean operand: "non-zero ⇒ 1". -/
def boolOperand (c : Byte) : Bool := decide (c ≠ 0x00#8)

/-- A slave or bus address operand; none when `A[7] = 1`. -/
def slaveOperand (a : Byte) : Option SlaveAddr := if addressLegal a then some (a.setWidth 7) else none

/-- A bit index operand; none when it is above 7. -/
def indexOperand (b : Byte) : Option (Fin 8) := if h : b.toNat < 8 then some ⟨b.toNat, h⟩ else none

/-- A transfer length operand; none when it is above 63. -/
def lenOperand (c : Byte) : Option Nat := if lenLegal c then some c.toNat else none

/-- `{B, C}`: a 16-bit operand, `B` the high byte. -/
def wideOperand (b c : Byte) : Half := b ++ c

/-! ## BitOps (R120, R121) -/

/-- `setBit(byte, index, value)`: the byte with bit `index` forced to `value` (R120). -/
def setBitOf (byte : Byte) (index : Fin 8) (value : Bool) : Byte :=
  if value then byte ||| (0x01#8 <<< index.val) else byte &&& ~~~(0x01#8 <<< index.val)

/-- `testBit(byte, index)`: exactly 0 or 1 (R121). -/
def testBitOf (byte : Byte) (index : Fin 8) : Byte := (byte >>> index.val) &&& 0x01#8

/-! ## PinIndex (R160, R161) -/

/-- The port identifier (R10). -/
inductive Port
  | portA
  | portB
  deriving DecidableEq, Repr

/-- `PORT_A = 0`, `PORT_B = 1` (R91). -/
def Port.tag : Port → Byte
  | .portA => 0x00#8
  | .portB => 0x01#8

/-- `resolvePin(pin)`; none is `InvalidPin` (R160). -/
def resolvePinOf (pin : Byte) : Option (Port × Fin 8) :=
  if h : 1 ≤ pin.toNat ∧ pin.toNat ≤ 8 then some (.portA, ⟨pin.toNat - 1, by omega⟩)
  else if h : 9 ≤ pin.toNat ∧ pin.toNat ≤ 16 then some (.portB, ⟨pin.toNat - 9, by omega⟩)
  else none

/-- `resolvePort(port, baseRegister)`; none is `InvalidPort` (R161). -/
def resolvePortOf (port baseRegister : Byte) : Option Byte :=
  if port = Port.portA.tag then some baseRegister
  else if port = Port.portB.tag then some (baseRegister + 1#8)
  else none

/-- `regOfPin(base, pin)` with the bit inside the register: the composition of R162; none is `InvalidPin`. -/
def regOfPin (base pin : Byte) : Option (Byte × Fin 8) :=
  match resolvePinOf pin with
  | none => none
  | some (port, bit) =>
    match resolvePortOf port.tag base with
    | none => none
    | some reg => some (reg, bit)

/-! ## BCD codec (R231, R232) -/

/-- `bcdToDecimal(byte) = byte[7:4] * 10 + byte[3:0]`, at most 165 (R231). -/
def bcdToDecimalOf (byte : Byte) : Byte := BitVec.ofNat 8 (byte.toNat / 16 * 10 + byte.toNat % 16)

/-- `decimalToBcd(value) = trunc_8((value / 10) * 16 + value % 10)` (R232). -/
def decimalToBcdOf (value : Byte) : Byte := BitVec.ofNat 8 (value.toNat / 10 * 16 + value.toNat % 10)

/-! ## Calendar Value (R29, R234, R235) -/

/-- `{DBUF[7], DBUF[6]}`: the year offset, low byte first (R29, R71). -/
def calendarYear (d : Vector Byte 64) : Half := d[7] ++ d[6]

/-- The seven wire bytes of `setDate` (R234): no field is checked; month + 1 modulo 256; year modulo 100. -/
def calendarToWire (d : Vector Byte 64) : List Byte :=
  [ decimalToBcdOf d[0], decimalToBcdOf d[1], decimalToBcdOf d[2], decimalToBcdOf d[3], decimalToBcdOf d[4],
    decimalToBcdOf (d[5] + 1#8), decimalToBcdOf (BitVec.ofNat 8 ((calendarYear d).toNat % 100)) ]

/-- The year of `readDate`: decoded year + CENTURY - 1900, modulo 2^16 (R235). -/
def yearFromWire (century : Half) (b : Byte) : Half := (bcdToDecimalOf b).setWidth 16 + century - 1900#16

/-- The eight Calendar Value bytes of `readDate` from the seven wire bytes (R235). -/
def wireToCalendar (century : Half) (wire : List Byte) : List Byte :=
  let at' (i : Nat) : Byte := wire.getD i 0x00#8
  let year := yearFromWire century (at' 6)
  [ bcdToDecimalOf (at' 0), bcdToDecimalOf (at' 1), bcdToDecimalOf (at' 2), bcdToDecimalOf (at' 3),
    bcdToDecimalOf (at' 4), bcdToDecimalOf (at' 5) - 1#8, year.extractLsb' 0 8, year.extractLsb' 8 8 ]

/-! ## Memory range check (R240) -/

/-- `inWindow(address, length)`: the sum without wrap-around, at most `MEM_LIMIT`; the lower bound under its parameter. -/
def inWindow (p : Params) (address length : Byte) : Bool :=
  decide (address.toNat + length.toNat ≤ Config.memLimit) &&
    (!p.memLowBoundEnforced || decide (Config.memLo ≤ address.toNat))

/-! ## Frequency selector (R238) -/

/-- (RS0, RS1) of a frequency code: "1:1 Hz, 2:4.096 kHz, 3:8.192 kHz, other:32.768 kHz". -/
def frequencyBits (code : Byte) : Bool × Bool :=
  if code = 0x01#8 then (false, false)
  else if code = 0x02#8 then (true, false)
  else if code = 0x03#8 then (false, true)
  else (true, true)

/-- The control byte of `setFrequency`: two `setBit` calls against the shadow (R238). -/
def frequencyControl (p : Params) (shadow code : Byte) : Byte :=
  setBitOf (setBitOf shadow p.rs0Bit (frequencyBits code).1) p.rs1Bit (frequencyBits code).2

end Sys2Proof.Machine
end

