-- ==== Sys2Proof/Machine/Ops.lean ====
section
/-! DEFINITION. The named operations over the state: device register memory, the environment's answers, the six bus
calls (20_memory.md R51 to R56), Transport (41_transport.md R131 to R137), the mailbox, the start and end of a command
and its failure, which is the block's whole trap entry (60_exceptions.md R276), and the host's moves. -/

namespace Sys2Proof.Machine

/-! ## Device register memory (R50; log 5) -/

/-- The byte a device register is known to hold, none when it is not known. -/
def Memory.read : Memory → Nat → Option Byte
  | [], _ => none
  | (k, b) :: m, a => if a = k then some b else Memory.read m a

/-- The register at key `a` is known to hold `b`; the list stays sorted. -/
def Memory.write : Memory → Nat → Byte → Memory
  | [], a, b => [(a, b)]
  | (k, c) :: m, a, b =>
    if a < k then (a, b) :: (k, c) :: m
    else if a = k then (a, b) :: m
    else (k, c) :: Memory.write m a b

/-- The canonical form: keys strictly rising. An unlisted register reads as no byte, so no entry repeats that. -/
abbrev Memory.wf (m : Memory) : Prop := m.Pairwise fun x y => x.1 < y.1

/-- Bytes stored at consecutive registers of a slave from `reg` on, wrapping after 0xFF (R60, PTR_WRAP). -/
def storeBytes (slave : SlaveAddr) : Nat → List Byte → Memory → Memory
  | _, [], m => m
  | reg, b :: bs, m => storeBytes slave (reg + 1) bs (Memory.write m (regKey slave reg) b)

/-- No register of the slave is known any more. -/
def forgetSlave (slave : SlaveAddr) (m : Memory) : Memory := m.filter fun c => decide (c.1 / 256 ≠ slave.toNat)

/-! ## The environment's answers (section 2 of 20_memory.md; log 1) -/

/-- The j-th answer the environment gives from here on. -/
def Env.answer (e : Env) (j : Nat) : Draw := (e.script[j]?).getD (Config.draw (e.drawn + j))

/-- The environment moves to its next answer; the expander's interrupt logic may have latched a condition (R64). -/
def Env.advance (e : Env) : Env :=
  { e with
    script := e.script.tail
    drawn := e.drawn + 1
    latchA := e.latchA || (e.answer 0).irqA
    latchB := e.latchB || (e.answer 0).irqB }

/-! ## What a transfer does to a device (R59 to R63) -/

/-- The register pointer of a device (R35). -/
def Env.pointer (e : Env) : Device → Byte
  | .rtc  => e.rtcPtr
  | .gpio => e.gpioPtr

/-- Set the register pointer of a device. -/
def Env.setPointer (e : Env) (v : Byte) : Device → Env
  | .rtc  => { e with rtcPtr := v }
  | .gpio => { e with gpioPtr := v }

/-- Device registers after payload bytes arrived at `reg` and the registers after it (R60). Under the register-block
oracle each lands in the array. Otherwise an RTC transfer that runs past 0x3F and an expander transfer of more than one
byte have no known effect (R61, U7, U9), so nothing of that device is known afterwards; nor does a byte for an address
the source does not list for the expander (R70, U6) change what is known (log 14). -/
def deviceStore (e : Env) (slave : SlaveAddr) (dev : Device) (reg : Nat) (payload : List Byte) : Memory :=
  if e.oracle = .registerBlock then storeBytes slave reg payload e.devRegs
  else if payload.length = 0 then e.devRegs
  else match dev with
    | .rtc =>
      if reg + payload.length ≤ Config.memHi + 1 then storeBytes slave reg payload e.devRegs
      else forgetSlave slave e.devRegs
    | .gpio =>
      if 1 < payload.length then forgetSlave slave e.devRegs
      else if gpioListed reg then storeBytes slave reg payload e.devRegs
      else e.devRegs

/-- Bytes of a write transfer the slave has taken: all of a full one; of a short one, what `SHORT_WRITE_EFFECT` says
(R60). -/
def bytesTaken (p : Params) (d : Draw) (k len : Nat) : Nat :=
  if k = len then len
  else match p.shortWriteEffect with
    | .exactPrefix => k
    | .anyPrefix   => min d.taken len

/-- Whether the spec gives the register pointer after `count` data bytes moved from `reg` on: while it stays inside the
RTC's registers, and after one byte at a register the source lists for the expander. What the RTC does past 0x3F and the
expander on more bytes is open (R61, N5, D17: "Guaranteed only where a driver command uses it"; log 14). -/
def pointerGiven (dev : Device) (reg count : Nat) : Bool :=
  match dev with
  | .rtc  => decide (reg + count ≤ Config.memHi)
  | .gpio => decide (count ≤ 1) && gpioListed reg

/-- The register pointer after `count` data bytes moved from `reg` on: past them (R60, R61), with `PTR_WRAP` for the
arrays of the register-block oracle; `any` value where it is open (log 14). -/
def pointerAfter (e : Env) (dev : Device) (reg : Byte) (count : Nat) (any : Byte) : Byte :=
  if count = 0 then reg
  else if e.oracle = .registerBlock then reg + BitVec.ofNat 8 count
  else if pointerGiven dev reg.toNat count then reg + BitVec.ofNat 8 count
  else any

/-- The environment after a slave has taken these bytes: the first sets the pointer, the others are stored from there,
and the pointer is past them where the spec gives it (R59, R60). -/
def deviceTake (e : Env) (slave : SlaveAddr) (taken : List Byte) (any : Byte) : Env :=
  match deviceAt e.board slave, taken with
  | some dev, reg :: payload =>
    { e with devRegs := deviceStore e slave dev reg.toNat payload }.setPointer
      (pointerAfter e dev reg payload.length any) dev
  | _, _ => e

/-- The byte an oracle fixes for the register `reg` in a read transfer of `n` bytes; none where it is any byte (R62). -/
def fixedByte (e : Env) (slave : SlaveAddr) (dev : Device) (n reg : Nat) : Option Byte :=
  match e.oracle with
  | .unconstrained => none
  | .registerBlock => Memory.read e.devRegs (regKey slave reg)
  | .perRegister =>
    match dev with
    | .rtc  => if inRtcWindow reg then Memory.read e.devRegs (regKey slave reg) else none
    | .gpio => if decide (n ≤ 1) && gpioConfigType reg then Memory.read e.devRegs (regKey slave reg) else none

/-- The bytes of a read transfer from `reg` on: what the oracle fixes, else the environment's own byte (R61, R62). -/
def readData (e : Env) (slave : SlaveAddr) (dev : Device) (n : Nat) : Nat → List Byte → List Byte
  | _, [] => []
  | reg, b :: bs => (fixedByte e slave dev n reg).getD b :: readData e slave dev n (reg + 1) bs

/-- The latch of one port after a read transfer of `n` bytes that began at `reg` and returned `k` (R63): reading the
port's capture register clears it; a read of it that returned nothing leaves any value (U13); a longer transfer may or
may not have reached it (U9). That 0x10 and 0x11 are the capture registers before the chip configuration register holds
`IOCON_INIT` is the model's choice (R303, N7; log 21). -/
def latchAfterRead (capture : Byte) (reg : Byte) (n k : Nat) (any latch : Bool) : Bool :=
  if n = 0 then latch
  else if reg = capture then (if k = 0 then any else false)
  else if 1 < n then any
  else latch

/-- Both latches of the expander after a read of `n` bytes that began at `reg` and returned `k`; `d` gives the values the
spec leaves open (log 7). -/
def Env.latchesAfterRead (e : Env) (reg : Byte) (n k : Nat) (d : Draw) : Env :=
  { e with
    latchA := latchAfterRead GpioPair.interruptCapture.base reg n k d.irqA e.latchA
    latchB := latchAfterRead (GpioPair.interruptCapture.base + 1#8) reg n k d.irqB e.latchB }

/-- The environment after a slave has returned `data` for a read of `n` bytes: the pointer is past them where the spec
gives it (R61), a capture read has had its side effect (R63), and under the register-block oracle the array holds what
was read (R62; log 5). -/
def deviceGive (e : Env) (slave : SlaveAddr) (dev : Device) (n : Nat) (data : List Byte) (d : Draw) : Env :=
  let reg := e.pointer dev
  let e1 := e.setPointer (pointerAfter e dev reg data.length d.pointer) dev
  let e2 : Env :=
    if e.oracle = .registerBlock then { e1 with devRegs := storeBytes slave reg.toNat data e.devRegs } else e1
  match dev with
  | .rtc  => e2
  | .gpio => e2.latchesAfterRead reg n data.length d

/-! ## The six bus calls (R51 to R56); each appends its event (R57) -/

/-- Append one event to the history (R57). -/
def record (ev : Event) (s : State) : State := { s with history := s.history ++ [ev] }

/-- The environment of a state replaced. -/
def setEnv (e : Env) (s : State) : State := { s with env := e }

/-- HANDLE written. -/
def setHandle (h : Handle) (s : State) : State := { s with handle := h }

/-- `BusOpen(path)` (R51): with no path the answer is `fail`, and the environment is not asked. -/
def busOpen (s : State) : Bool × State :=
  match s.busPath with
  | .noPath => (false, record (.busOpen .noPath false) s)
  | .path t =>
    let d := s.env.answer 0
    (d.ok, record (.busOpen (.path t) d.ok) (setEnv s.env.advance s))

/-- `BusBind(a)` (R52). -/
def busBind (a : SlaveAddr) (s : State) : Bool × State :=
  let d := s.env.answer 0
  (d.ok, record (.busBind a d.ok) (setEnv s.env.advance s))

/-- `BusWrite(buf)` (R53): the number of bytes reported moved. -/
def busWrite (buf : List Byte) (s : State) : Nat × State :=
  let d := s.env.answer 0
  let k := min d.count buf.length
  let taken := buf.take (bytesTaken s.params d k buf.length)
  let e := s.env.advance
  let e' :=
    match s.handle with
    | .bound a => deviceTake e a taken d.pointer
    | .opened  => e
    | .closed  => e
  (k, record (.busWrite buf k) (setEnv e' s))

/-- `BusRead(n)` (R54): the bytes returned, at most `n`. -/
def busRead (n : Nat) (s : State) : List Byte × State :=
  let d := s.env.answer 0
  let raw := d.data.take n
  let e := s.env.advance
  let plain := (raw, record (.busRead n raw.length raw) (setEnv e s))
  match s.handle with
  | .closed => plain
  | .opened => plain
  | .bound a =>
    match deviceAt e.board a with
    | none => plain
    | some dev =>
      let data := readData e a dev n (e.pointer dev).toNat raw
      (data, record (.busRead n data.length data) (setEnv (deviceGive e a dev n data d) s))

/-- `BusClose()` with HANDLE becoming CLOSED: the `close` operation (R55, R135). -/
def close (s : State) : State := record .busClose (setHandle .closed s)

/-- `Sleep(RETRY_DELAY)` (R56). -/
def sleep (s : State) : State := record (.sleep s.params.retryDelay) s

/-! ## Transport (41_transport.md) -/

/-- The open loop of R131 with `n` retries left: was the node opened? -/
def openAttempts : Nat → State → Bool × State
  | 0, s => busOpen s
  | n + 1, s =>
    match busOpen s with
    | (true, s')  => (true, s')
    | (false, s') => openAttempts n (sleep s')

/-- `openTransaction` (R131): the first attempt and at most `MAX_RETRIES` retries, then one bind. -/
def openTransaction (slave : SlaveAddr) (s : State) : Res Unit :=
  match openAttempts s.params.maxRetries s with
  | (false, s1) => .err .busUnavailable s1
  | (true, s1) =>
    match busBind slave (setHandle .opened s1) with
    | (false, s2) => .err .busUnavailable (close s2)
    | (true, s2)  => .ok () (setHandle (.bound slave) s2)

/-- A read of `n` bytes from `reg` failed at its address-select write, so no read transfer is made. Whether such a failed
read of a capture register cleared the latch is the device's: any value (R279, U13; log 7). -/
def readNotMade (reg : Byte) (n : Nat) (d : Draw) (s : State) : State :=
  match s.handle with
  | .closed => s
  | .opened => s
  | .bound a =>
    match deviceAt s.env.board a with
    | none       => s
    | some .rtc  => s
    | some .gpio => setEnv (s.env.latchesAfterRead reg n 0 d) s

/-- `readBytes` (R133). -/
def readBytes (reg : Byte) (n : Nat) (s : State) : Res (List Byte) :=
  let w := busWrite [reg] s
  if w.1 ≠ 1 then .err (.shortTransfer 0 []) (readNotMade reg n (s.env.answer 0) w.2)
  else
    let r := busRead n w.2
    if r.1.length < n then .err (.shortTransfer r.1.length r.1) r.2 else .ok r.1 r.2

/-- `writeBytes` (R134). -/
def writeBytes (reg : Byte) (payload : List Byte) (s : State) : Res Unit :=
  let w := busWrite (reg :: payload) s
  if w.1 ≠ payload.length + 1 then .err (.shortTransfer w.1 []) w.2 else .ok () w.2

/-- `MemRead((slave, reg), n)`: one read transaction, closed in every case (R136). -/
def memRead (slave : SlaveAddr) (reg : Byte) (n : Nat) (s : State) : Res (List Byte) :=
  (openTransaction slave s).andThen fun _ s1 => (readBytes reg n s1).mapState close

/-- `MemWrite((slave, reg), n, v)`: one write transaction, closed in every case (R137). -/
def memWrite (slave : SlaveAddr) (reg : Byte) (v : List Byte) (s : State) : Res Unit :=
  (openTransaction slave s).andThen fun _ s1 => (writeBytes reg v s1).mapState close

/-! ## The mailbox (R29) -/

/-- `DBUF[0 .. n-1]`. -/
def dbufPrefix (n : Nat) (s : State) : List Byte := s.dbuf.toList.take n

/-- Bytes written into a mailbox from index `i` on. -/
def mailboxStore : Nat → List Byte → Vector Byte 64 → Vector Byte 64
  | _, [], v => v
  | i, b :: bs, v => mailboxStore (i + 1) bs (v.setIfInBounds i b)

/-- `DBUF[0 .. len(data)-1] <- data`; the other bytes keep their values. -/
def setDbuf (data : List Byte) (s : State) : State := { s with dbuf := mailboxStore 0 data s.dbuf }

/-! ## Start and end of a command -/

/-- The start of every command: BUSY is 1, RVAL and RLEN are cleared (R31, R32, R33). -/
def beginCommand (s : State) : State := { s with busy := true, rval := 0x0000#16, rlen := 0x00#8 }

/-- RVAL written by a command that returns a value (R31). -/
def setRval (v : Half) (s : State) : State := { s with rval := v }

/-- RLEN written by a command that delivers bytes (R32). -/
def setRlen (n : Nat) (s : State) : State := { s with rlen := BitVec.ofNat 8 n }

/-- `return` (R8): STATUS is OK and BUSY falls. -/
def finish (s : State) : State := { s with status := statusOk, busy := false }

/-- An open handle is closed on every exit path (R276 step 1, R28). -/
def closeIfOpen (s : State) : State :=
  match s.handle with
  | .closed  => s
  | .opened  => close s
  | .bound _ => close s

/-- RLEN, STATUS and BUSY of a failed command (R276 steps 2 to 4). -/
def postFailure (f : Failure) (s : State) : State :=
  { s with rlen := f.rlenAfter s.rlen, status := f.code, busy := false }

/-- `raise <Kind>(info)`: the block's whole trap entry (R276). Nothing is saved and control goes nowhere: there is no
return from it (R277). -/
def raise (f : Failure) (s : State) : State := postFailure f (closeIfOpen s)

/-- How a command ends: it returns, or raises the failure it met. -/
def endCommand : Res Unit → State
  | .ok _ s  => finish s
  | .err f s => raise f s

/-- One command: its start, its body, its end. -/
def runCommand (body : State → Res Unit) (s : State) : State := endCommand (body (beginCommand s))

/-- A command of no effect but a scalar result (R120, R121, R231, R232). -/
def returnValue (v : Half) (s : State) : Res Unit := .ok () (setRval v s)

/-- An illegal command: STATUS is `IllegalCommand`, no bus event, no other change (R97, R275). -/
def illegalCommand (s : State) : State := runCommand (fun s1 => .err .illegalCommand s1) s

/-- Bytes of a raw read to the mailbox: all of them, or on a short data read those received (R140, R241). -/
def deliver (r : Res (List Byte)) : Res Unit :=
  match r with
  | .ok data s => .ok () (setRlen data.length (setDbuf data s))
  | .err (.shortTransfer k received) s => .err (.shortTransfer k received) (setDbuf received s)
  | .err .busUnavailable s   => .err .busUnavailable s
  | .err .invalidPin s       => .err .invalidPin s
  | .err .invalidPort s      => .err .invalidPort s
  | .err .memoryRangeError s => .err .memoryRangeError s
  | .err .illegalCommand s   => .err .illegalCommand s

/-! ## GpioExpanderDriver templates (43_gpio.md R171 to R174) -/

/-- A one-byte read of the expander: `MemRead((x[GPIOADDR], reg), 1)[0]` (R170). -/
def gpioRead (reg : Byte) (s : State) : Res Byte :=
  (memRead s.gpioAddr reg 1 s).andThen fun data s1 => .ok (data.headD 0x00#8) s1

/-- A one-byte write of the expander: `MemWrite((x[GPIOADDR], reg), 1, [v])` (R170). -/
def gpioWrite (reg v : Byte) (s : State) : Res Unit := memWrite s.gpioAddr reg [v] s

/-- `pinSet(base, pin, value)`: read-modify-write of one bit (R171). -/
def pinSet (base pin value : Byte) (s : State) : Res Unit :=
  match regOfPin base pin with
  | none => .err .invalidPin s
  | some (reg, bit) =>
    (gpioRead reg s).andThen fun cur s1 => gpioWrite reg (setBitOf cur bit (boolOperand value)) s1

/-- `pinGet(base, pin)`: read of one bit (R172). -/
def pinGet (base pin : Byte) (s : State) : Res Unit :=
  match regOfPin base pin with
  | none => .err .invalidPin s
  | some (reg, bit) =>
    (gpioRead reg s).andThen fun cur s1 => returnValue ((testBitOf cur bit).setWidth 16) s1

/-- `portWrite(base, port, value)`: write of a whole port byte (R173). -/
def portWrite (base port value : Byte) (s : State) : Res Unit :=
  match resolvePortOf port base with
  | none => .err .invalidPort s
  | some reg => gpioWrite reg value s

/-- `portRead(base, port)`: read of a whole port byte (R174). -/
def portRead (base port : Byte) (s : State) : Res Unit :=
  match resolvePortOf port base with
  | none => .err .invalidPort s
  | some reg => (gpioRead reg s).andThen fun v s1 => returnValue (v.setWidth 16) s1

/-- Writes of the expander in order, stopping at the first failure (R209, R210). -/
def gpioWrites : List (Byte × Byte) → State → Res Unit
  | [], s => .ok () s
  | (reg, v) :: rest, s => (gpioWrite reg v s).andThen fun _ s1 => gpioWrites rest s1

/-- Reads of the expander whose byte is discarded, in order, stopping at the first failure (R208, R209). -/
def gpioAcknowledge : List Byte → State → Res Unit
  | [], s => .ok () s
  | reg :: rest, s => (gpioRead reg s).andThen fun _ s1 => gpioAcknowledge rest s1

/-! ## RtcDriver (44_rtc.md R236) -/

/-- Write the whole control byte to the RTC; the shadow takes it only when the write succeeded (R236, decision D27). -/
def writeControl (new : Byte) (s : State) : Res Unit :=
  (memWrite Config.rtcAddr RtcReg.control.addr [new] s).andThen fun _ s1 => .ok () { s1 with rtcCtrl := new }

/-! ## The host's moves (R29, R33, R300) -/

/-- The host stores a mailbox byte. -/
def hostStore (index : Fin 64) (value : Byte) (s : State) : State := { s with dbuf := s.dbuf.set index value }

/-- The host writes CMD: BUSY is 1 and the word is in the port (R33). -/
def acceptCommand (word : Word) (s : State) : State := { s with cmd := word, busy := true }

/-- The move is made; the moves after it remain. -/
def takeMove (rest : List HostMove) (s : State) : State := { s with host := rest }

/-- Reset of the block (R300, R301): block state as R36 says, an empty history, DBUF unspecified anew; the devices, the
parameters and the host's remaining moves are as they were (log 12). -/
def resetBlock (s : State) : State :=
  { State.reset with
    dbuf := unspecifiedDbuf (s.env.drawn + 1)
    host := s.host
    params := s.params
    env := { s.env with drawn := s.env.drawn + 1 } }

/-- Put a command word in front of the host's moves, with the block idle, so that the next step runs it. -/
def fetchNext (word : Word) (s : State) : State := { s with host := .writeCmd word :: s.host, busy := false }

end Sys2Proof.Machine
end

