-- ==== Sys2Proof/Machine/BitOps.lean ====
section
/-! DEFINITION. The BitOps commands (40_bitops.md R120, R121). An index above 7 is `IllegalCommand` (decision D37). -/

namespace Sys2Proof.Machine

/-- `setBit byte, index, value` (R120). -/
def execSetBit (byte index value : Byte) (s : State) : Host.Outcome State Fault Refusal :=
  .next (match indexOperand index with
    | some i => runCommand (returnValue ((setBitOf byte i (boolOperand value)).setWidth 16)) s
    | none => illegalCommand s)

/-- `testBit byte, index` (R121). -/
def execTestBit (byte index : Byte) (s : State) : Host.Outcome State Fault Refusal :=
  .next (match indexOperand index with
    | some i => runCommand (returnValue ((testBitOf byte i).setWidth 16)) s
    | none => illegalCommand s)

end Sys2Proof.Machine
end

