-- ==== Sys2Proof/Machine/GpioInit.lean ====
section
/-! DEFINITION. Interrupt acknowledgement and initialisation of the GPIO expander (43_gpio.md R208, R209). -/

namespace Sys2Proof.Machine

/-- `acknowledgeInterrupts port`: reads the capture register and discards the byte (R208). -/
def execAcknowledgeInterrupts (port : Byte) (s : State) : Host.Outcome State Fault Refusal :=
  .next (runCommand (fun s1 =>
    match resolvePortOf port GpioPair.interruptCapture.base with
    | none => .err .invalidPort s1
    | some reg => gpioAcknowledge [reg] s1) s)

/-- A register pair written with one byte, port A before port B. -/
def pairWrites (pair : GpioPair) (v : Byte) : List (Byte × Byte) := [(pair.base, v), (pair.base + 1#8, v)]

/-- Steps 2 to 13 of `initialize` with the reset flag (R209): outputs, direction, pull-ups, polarity, interrupt-enable,
interrupt-default. -/
def resetWrites (p : Params) : List (Byte × Byte) :=
  pairWrites .portValue 0x00#8 ++ pairWrites .direction p.dirAllInput ++ pairWrites .pullUp 0x00#8 ++
    pairWrites .polarity 0x00#8 ++ pairWrites .interruptEnable 0x00#8 ++ pairWrites .interruptDefault 0x00#8

/-- Steps 14 and 15 of `initialize` (R209): acknowledge both ports. -/
def resetAcknowledges : List Byte := [GpioPair.interruptCapture.base, GpioPair.interruptCapture.base + 1#8]

/-- Step 0 of `initialize` (R209): the address (zero keeps it) and the reset policy. -/
def latchInit (busAddress : SlaveAddr) (resetFlag : Bool) (s : State) : State :=
  { s with
    gpioAddr := if busAddress = 0x00#7 then s.gpioAddr else busAddress
    gpioResetPol := resetFlag }

/-- The steps of `initialize` after step 0 (R209). -/
def initSteps (resetFlag : Bool) (s : State) : Res Unit :=
  (gpioWrite chipConfiguration s.params.ioconInit s).andThen fun _ s1 =>
    if resetFlag then
      (gpioWrites (resetWrites s1.params) s1).andThen fun _ s2 => gpioAcknowledge resetAcknowledges s2
    else .ok () s1

/-- `initialize resetFlag, busAddress` (R209). A bus address above 0x7F is `IllegalCommand` (R97). -/
def execInitialize (busAddress resetFlag : Byte) (s : State) : Host.Outcome State Fault Refusal :=
  .next (match slaveOperand busAddress with
    | none => illegalCommand s
    | some a =>
      runCommand (fun s1 => initSteps (boolOperand resetFlag) (latchInit a (boolOperand resetFlag) s1)) s)

end Sys2Proof.Machine
end

