-- ==== Sys2Proof/Machine/GpioPin.lean ====
section
/-! DEFINITION. The per-pin commands of GpioExpanderDriver (43_gpio.md R175 to R180, R196, R197, R200 to R205; templates R171, R172). -/

namespace Sys2Proof.Machine

/-- `setPinDirection pin, value` (R175). -/
def execSetPinDirection (pin value : Byte) (s : State) : Host.Outcome State Fault Refusal :=
  .next (runCommand (pinSet GpioPair.direction.base pin value) s)

/-- `setPinPolarity pin, value` (R196). -/
def execSetPinPolarity (pin value : Byte) (s : State) : Host.Outcome State Fault Refusal :=
  .next (runCommand (pinSet GpioPair.polarity.base pin value) s)

/-- `setInterruptOnPin pin, value` (R179). -/
def execSetInterruptOnPin (pin value : Byte) (s : State) : Host.Outcome State Fault Refusal :=
  .next (runCommand (pinSet GpioPair.interruptEnable.base pin value) s)

/-- `setPinInterruptDefault pin, value` (R202). -/
def execSetPinInterruptDefault (pin value : Byte) (s : State) : Host.Outcome State Fault Refusal :=
  .next (runCommand (pinSet GpioPair.interruptDefault.base pin value) s)

/-- `setPinInterruptType pin, value` (R200). -/
def execSetPinInterruptType (pin value : Byte) (s : State) : Host.Outcome State Fault Refusal :=
  .next (runCommand (pinSet GpioPair.interruptControl.base pin value) s)

/-- `setPinPullup pin, value` (R177). -/
def execSetPinPullup (pin value : Byte) (s : State) : Host.Outcome State Fault Refusal :=
  .next (runCommand (pinSet GpioPair.pullUp.base pin value) s)

/-- `writePin pin, value` (R204). -/
def execWritePin (pin value : Byte) (s : State) : Host.Outcome State Fault Refusal :=
  .next (runCommand (pinSet GpioPair.portValue.base pin value) s)

/-- `getPinDirection pin` (R176). -/
def execGetPinDirection (pin : Byte) (s : State) : Host.Outcome State Fault Refusal :=
  .next (runCommand (pinGet GpioPair.direction.base pin) s)

/-- `getPinPolarity pin` (R197). -/
def execGetPinPolarity (pin : Byte) (s : State) : Host.Outcome State Fault Refusal :=
  .next (runCommand (pinGet GpioPair.polarity.base pin) s)

/-- `getInterruptOnPin pin` (R180). -/
def execGetInterruptOnPin (pin : Byte) (s : State) : Host.Outcome State Fault Refusal :=
  .next (runCommand (pinGet GpioPair.interruptEnable.base pin) s)

/-- `getPinInterruptDefault pin` (R203). -/
def execGetPinInterruptDefault (pin : Byte) (s : State) : Host.Outcome State Fault Refusal :=
  .next (runCommand (pinGet GpioPair.interruptDefault.base pin) s)

/-- `getPinInterruptType pin` (R201). -/
def execGetPinInterruptType (pin : Byte) (s : State) : Host.Outcome State Fault Refusal :=
  .next (runCommand (pinGet GpioPair.interruptControl.base pin) s)

/-- `getPinPullup pin` (R178). -/
def execGetPinPullup (pin : Byte) (s : State) : Host.Outcome State Fault Refusal :=
  .next (runCommand (pinGet GpioPair.pullUp.base pin) s)

/-- `readPin pin` (R205). -/
def execReadPin (pin : Byte) (s : State) : Host.Outcome State Fault Refusal :=
  .next (runCommand (pinGet GpioPair.portValue.base pin) s)

end Sys2Proof.Machine
end

