-- ==== Sys2Proof/Machine/GpioPort.lean ====
section
/-! DEFINITION. The per-port commands of GpioExpanderDriver (43_gpio.md R181 to R195, R198, R199; templates R173, R174). -/

namespace Sys2Proof.Machine

/-- `setPortDirection port, value` (R181). -/
def execSetPortDirection (port value : Byte) (s : State) : Host.Outcome State Fault Refusal :=
  .next (runCommand (portWrite GpioPair.direction.base port value) s)

/-- `setPortPolarity port, value` (R198). -/
def execSetPortPolarity (port value : Byte) (s : State) : Host.Outcome State Fault Refusal :=
  .next (runCommand (portWrite GpioPair.polarity.base port value) s)

/-- `setInterruptOnPort port, value` (R189). -/
def execSetInterruptOnPort (port value : Byte) (s : State) : Host.Outcome State Fault Refusal :=
  .next (runCommand (portWrite GpioPair.interruptEnable.base port value) s)

/-- `setInterruptDefaults port, value` (R187). -/
def execSetInterruptDefaults (port value : Byte) (s : State) : Host.Outcome State Fault Refusal :=
  .next (runCommand (portWrite GpioPair.interruptDefault.base port value) s)

/-- `setInterruptType port, value` (R185). -/
def execSetInterruptType (port value : Byte) (s : State) : Host.Outcome State Fault Refusal :=
  .next (runCommand (portWrite GpioPair.interruptControl.base port value) s)

/-- `setPortPullups port, value` (R183). -/
def execSetPortPullups (port value : Byte) (s : State) : Host.Outcome State Fault Refusal :=
  .next (runCommand (portWrite GpioPair.pullUp.base port value) s)

/-- `writePort port, value` (R194). -/
def execWritePort (port value : Byte) (s : State) : Host.Outcome State Fault Refusal :=
  .next (runCommand (portWrite GpioPair.portValue.base port value) s)

/-- `getPortDirection port` (R182). -/
def execGetPortDirection (port : Byte) (s : State) : Host.Outcome State Fault Refusal :=
  .next (runCommand (portRead GpioPair.direction.base port) s)

/-- `getPortPolarity port` (R199). -/
def execGetPortPolarity (port : Byte) (s : State) : Host.Outcome State Fault Refusal :=
  .next (runCommand (portRead GpioPair.polarity.base port) s)

/-- `getInterruptOnPort port` (R190). -/
def execGetInterruptOnPort (port : Byte) (s : State) : Host.Outcome State Fault Refusal :=
  .next (runCommand (portRead GpioPair.interruptEnable.base port) s)

/-- `getInterruptDefaults port` (R188). -/
def execGetInterruptDefaults (port : Byte) (s : State) : Host.Outcome State Fault Refusal :=
  .next (runCommand (portRead GpioPair.interruptDefault.base port) s)

/-- `getInterruptType port` (R186). -/
def execGetInterruptType (port : Byte) (s : State) : Host.Outcome State Fault Refusal :=
  .next (runCommand (portRead GpioPair.interruptControl.base port) s)

/-- `getPortPullups port` (R184). -/
def execGetPortPullups (port : Byte) (s : State) : Host.Outcome State Fault Refusal :=
  .next (runCommand (portRead GpioPair.pullUp.base port) s)

/-- `readInterruptStatus port` (R191). -/
def execReadInterruptStatus (port : Byte) (s : State) : Host.Outcome State Fault Refusal :=
  .next (runCommand (portRead GpioPair.interruptFlag.base port) s)

/-- `readInterruptCapture port` (R192). -/
def execReadInterruptCapture (port : Byte) (s : State) : Host.Outcome State Fault Refusal :=
  .next (runCommand (portRead GpioPair.interruptCapture.base port) s)

/-- `readPort port` (R195). -/
def execReadPort (port : Byte) (s : State) : Host.Outcome State Fault Refusal :=
  .next (runCommand (portRead GpioPair.portValue.base port) s)

/-- `readOutputLatch port` (R193). -/
def execReadOutputLatch (port : Byte) (s : State) : Host.Outcome State Fault Refusal :=
  .next (runCommand (portRead GpioPair.outputLatch.base port) s)

end Sys2Proof.Machine
end

