-- ==== Sys2Proof/Machine/PinIndex.lean ====
section
/-! DEFINITION. The PinIndex commands (42_pinindex.md R160, R161). -/

namespace Sys2Proof.Machine

/-- `resolvePin pin`: the port in RVAL[15:8], the bit in RVAL[7:0] (R160). -/
def execResolvePin (pin : Byte) (s : State) : Host.Outcome State Fault Refusal :=
  .next (runCommand (fun s1 =>
    match resolvePinOf pin with
    | none => .err .invalidPin s1
    | some (port, bit) => returnValue (port.tag ++ BitVec.ofNat 8 bit.val) s1) s)

/-- `resolvePort port, baseRegister` (R161). -/
def execResolvePort (port baseRegister : Byte) (s : State) : Host.Outcome State Fault Refusal :=
  .next (runCommand (fun s1 =>
    match resolvePortOf port baseRegister with
    | none => .err .invalidPort s1
    | some reg => returnValue (reg.setWidth 16) s1) s)

end Sys2Proof.Machine
end

