-- ==== Sys2Proof/Machine/Rtc.lean ====
section
/-! DEFINITION. The RtcDriver commands (44_rtc.md R231 to R243). -/

namespace Sys2Proof.Machine

/-- `bcdToDecimal byte` (R231). -/
def execBcdToDecimal (byte : Byte) (s : State) : Host.Outcome State Fault Refusal :=
  .next (runCommand (returnValue ((bcdToDecimalOf byte).setWidth 16)) s)

/-- `decimalToBcd value` (R232). -/
def execDecimalToBcd (value : Byte) (s : State) : Host.Outcome State Fault Refusal :=
  .next (runCommand (returnValue ((decimalToBcdOf value).setWidth 16)) s)

/-- `setDate`: seven bytes in one write transfer (R234). -/
def execSetDate (s : State) : Host.Outcome State Fault Refusal :=
  .next (runCommand (fun s1 => memWrite Config.rtcAddr RtcReg.seconds.addr (calendarToWire s1.dbuf) s1) s)

/-- `readDate`: seven bytes in one read transfer; on failure DBUF is not written (R235). -/
def execReadDate (s : State) : Host.Outcome State Fault Refusal :=
  .next (runCommand (fun s1 =>
    (memRead Config.rtcAddr RtcReg.seconds.addr 7 s1).andThen fun wire s2 =>
      .ok () (setRlen 8 (setDbuf (wireToCalendar s2.century wire) s2))) s)

/-- `enableOutput` (R236). -/
def execEnableOutput (s : State) : Host.Outcome State Fault Refusal :=
  .next (runCommand (fun s1 => writeControl (setBitOf s1.rtcCtrl s1.params.sqweBit true) s1) s)

/-- `disableOutput` (R237). -/
def execDisableOutput (s : State) : Host.Outcome State Fault Refusal :=
  .next (runCommand (fun s1 => writeControl (setBitOf s1.rtcCtrl s1.params.sqweBit false) s1) s)

/-- `setFrequency code` (R238). -/
def execSetFrequency (code : Byte) (s : State) : Host.Outcome State Fault Refusal :=
  .next (runCommand (fun s1 => writeControl (frequencyControl s1.params s1.rtcCtrl code) s1) s)

/-- `writeMemory address, length` (R239). -/
def execWriteMemory (address length : Byte) (s : State) : Host.Outcome State Fault Refusal :=
  .next (runCommand (fun s1 =>
    if inWindow s1.params address length then memWrite Config.rtcAddr address (dbufPrefix length.toNat s1) s1
    else .err .memoryRangeError s1) s)

/-- `readMemory address, length` (R241). -/
def execReadMemory (address length : Byte) (s : State) : Host.Outcome State Fault Refusal :=
  .next (runCommand (fun s1 =>
    if inWindow s1.params address length then deliver (memRead Config.rtcAddr address length.toNat s1)
    else .err .memoryRangeError s1) s)

/-- `setCentury century` (R243). -/
def execSetCentury (high low : Byte) (s : State) : Host.Outcome State Fault Refusal :=
  .next (runCommand (fun s1 => .ok () { s1 with century := wideOperand high low }) s)

end Sys2Proof.Machine
end

