-- ==== Sys2Proof/Machine/Transport.lean ====
section
/-! DEFINITION. The Transport commands (41_transport.md R139 to R141). An operand outside its decode check is
`IllegalCommand` (30_encoding.md R97); the decoder never gives one (log 17). -/

namespace Sys2Proof.Machine

/-- `busSetup path` (R139). -/
def execBusSetup (path : Byte) (s : State) : Host.Outcome State Fault Refusal :=
  .next (runCommand (fun s1 => .ok () { s1 with busPath := .path path }) s)

/-- `i2cRead slave, reg, len` (R140). -/
def execI2cRead (slave reg len : Byte) (s : State) : Host.Outcome State Fault Refusal :=
  .next (match slaveOperand slave, lenOperand len with
    | some a, some n => runCommand (fun s1 => deliver (memRead a reg n s1)) s
    | _, _ => illegalCommand s)

/-- `i2cWrite slave, reg, len` (R141). -/
def execI2cWrite (slave reg len : Byte) (s : State) : Host.Outcome State Fault Refusal :=
  .next (match slaveOperand slave, lenOperand len with
    | some a, some n => runCommand (fun s1 => memWrite a reg (dbufPrefix n s1) s1) s
    | _, _ => illegalCommand s)

end Sys2Proof.Machine
end

