-- ==== Sys2Proof/Machine/Dispatch.lean ====
section
/-! DEFINITION. One arm per command: the call of its meaning. -/

namespace Sys2Proof.Machine

def exec (i : Instr) (s : State) : Host.Outcome State Fault Refusal :=
  match i with
  | .busSetup path => Sys2Proof.Machine.execBusSetup path s
  | .i2cRead slave reg len => Sys2Proof.Machine.execI2cRead slave reg len s
  | .i2cWrite slave reg len => Sys2Proof.Machine.execI2cWrite slave reg len s
  | .setBit byte index value => Sys2Proof.Machine.execSetBit byte index value s
  | .testBit byte index => Sys2Proof.Machine.execTestBit byte index s
  | .resolvePin pin => Sys2Proof.Machine.execResolvePin pin s
  | .resolvePort port base => Sys2Proof.Machine.execResolvePort port base s
  | .setPinDirection pin value => Sys2Proof.Machine.execSetPinDirection pin value s
  | .setPinPolarity pin value => Sys2Proof.Machine.execSetPinPolarity pin value s
  | .setInterruptOnPin pin value => Sys2Proof.Machine.execSetInterruptOnPin pin value s
  | .setPinInterruptDefault pin value => Sys2Proof.Machine.execSetPinInterruptDefault pin value s
  | .setPinInterruptType pin value => Sys2Proof.Machine.execSetPinInterruptType pin value s
  | .setPinPullup pin value => Sys2Proof.Machine.execSetPinPullup pin value s
  | .writePin pin value => Sys2Proof.Machine.execWritePin pin value s
  | .getPinDirection pin => Sys2Proof.Machine.execGetPinDirection pin s
  | .getPinPolarity pin => Sys2Proof.Machine.execGetPinPolarity pin s
  | .getInterruptOnPin pin => Sys2Proof.Machine.execGetInterruptOnPin pin s
  | .getPinInterruptDefault pin => Sys2Proof.Machine.execGetPinInterruptDefault pin s
  | .getPinInterruptType pin => Sys2Proof.Machine.execGetPinInterruptType pin s
  | .getPinPullup pin => Sys2Proof.Machine.execGetPinPullup pin s
  | .readPin pin => Sys2Proof.Machine.execReadPin pin s
  | .setPortDirection port value => Sys2Proof.Machine.execSetPortDirection port value s
  | .setPortPolarity port value => Sys2Proof.Machine.execSetPortPolarity port value s
  | .setInterruptOnPort port value => Sys2Proof.Machine.execSetInterruptOnPort port value s
  | .setInterruptDefaults port value => Sys2Proof.Machine.execSetInterruptDefaults port value s
  | .setInterruptType port value => Sys2Proof.Machine.execSetInterruptType port value s
  | .setPortPullups port value => Sys2Proof.Machine.execSetPortPullups port value s
  | .writePort port value => Sys2Proof.Machine.execWritePort port value s
  | .getPortDirection port => Sys2Proof.Machine.execGetPortDirection port s
  | .getPortPolarity port => Sys2Proof.Machine.execGetPortPolarity port s
  | .getInterruptOnPort port => Sys2Proof.Machine.execGetInterruptOnPort port s
  | .getInterruptDefaults port => Sys2Proof.Machine.execGetInterruptDefaults port s
  | .getInterruptType port => Sys2Proof.Machine.execGetInterruptType port s
  | .getPortPullups port => Sys2Proof.Machine.execGetPortPullups port s
  | .readInterruptStatus port => Sys2Proof.Machine.execReadInterruptStatus port s
  | .readInterruptCapture port => Sys2Proof.Machine.execReadInterruptCapture port s
  | .readPort port => Sys2Proof.Machine.execReadPort port s
  | .readOutputLatch port => Sys2Proof.Machine.execReadOutputLatch port s
  | .acknowledgeInterrupts port => Sys2Proof.Machine.execAcknowledgeInterrupts port s
  | .initializeGpio busAddress resetFlag => Sys2Proof.Machine.execInitialize busAddress resetFlag s
  | .bcdToDecimal byte => Sys2Proof.Machine.execBcdToDecimal byte s
  | .decimalToBcd value => Sys2Proof.Machine.execDecimalToBcd value s
  | .setDate => Sys2Proof.Machine.execSetDate s
  | .readDate => Sys2Proof.Machine.execReadDate s
  | .enableOutput => Sys2Proof.Machine.execEnableOutput s
  | .disableOutput => Sys2Proof.Machine.execDisableOutput s
  | .setFrequency code => Sys2Proof.Machine.execSetFrequency code s
  | .writeMemory address length => Sys2Proof.Machine.execWriteMemory address length s
  | .readMemory address length => Sys2Proof.Machine.execReadMemory address length s
  | .setCentury high low => Sys2Proof.Machine.execSetCentury high low s

end Sys2Proof.Machine
end

