-- ==== Sys2Proof/Machine/Step.lean ====
section
/-! DEFINITION. One step: the next move of the host (70_reset_and_hazards.md R317). A write of CMD is one whole command,
decoded from the port and run to its end (10_state.md R33, 00_scope.md R9); an illegal word is `IllegalCommand`
(30_encoding.md R97). With no move left the block is idle and keeps its state (60_exceptions.md R286; log 10). -/

namespace Sys2Proof.Machine

/-- Run the command whose word stands in CMD. -/
def runPort (s : State) : Host.Outcome State Fault Refusal :=
  match decode s.cmd with
  | .ok i    => exec i s
  | .error _ => .next (illegalCommand s)

def step (s : State) : Host.Outcome State Fault Refusal :=
  match s.busy with
  | true => .fault .hostMoveWhileBusy
  | false =>
    match s.host with
    | [] => .next s
    | .storeDbuf index value :: rest => .next (hostStore index value (takeMove rest s))
    | .reset :: rest => .next (resetBlock (takeMove rest s))
    | .writeCmd word :: rest => runPort (acceptCommand word (takeMove rest s))

/-- `s` with the instruction `w` as the host's next move (log 10). -/
def State.withFetchWord (s : State) (nbits w : Nat) : State := fetchNext (BitVec.ofNat 32 (w % 2 ^ nbits)) s

end Sys2Proof.Machine
end

