-- ==== Sys2Proof/Safety.lean ====
section
/-! DEFINITION. What a safe run of EDG-HC is, in the terms the claims use: the bracket structure of the event history
(41_transport.md R138), the block idle between commands (R138, 10_state.md R28), legal STATUS codes (60_exceptions.md
R270), the shadow's dormant bits (10_state.md R26), the canonical form of the device registers, and the agreement of the
shadow with the device (R26, 70_reset_and_hazards.md R304). -/

namespace Sys2Proof.Safety

open Sys2Proof.Machine

/-- Where a history stands inside a transaction (R136, R137, R138). -/
inductive Bracket
  /-- no node is open. -/
  | outside
  /-- the node is open, nothing bound. -/
  | opened
  /-- the bind failed: only a close may follow. -/
  | bindFailed
  /-- a slave is bound, no transfer yet. -/
  | bound
  /-- one byte was written in full: a read transfer may follow. -/
  | addressed
  /-- the transfers are over: only a close may follow. -/
  | done
  deriving DecidableEq, Repr

/-- The events R138 allows at each place; none where it forbids one. -/
def bracketStep : Bracket → Event → Option Bracket
  | .outside, .busOpen _ true      => some .opened
  | .outside, .busOpen _ false     => some .outside
  | .outside, .sleep _             => some .outside
  | .opened, .busBind _ true       => some .bound
  | .opened, .busBind _ false      => some .bindFailed
  | .bound, .busWrite [_] 1        => some .addressed
  | .bound, .busWrite _ _          => some .done
  | .addressed, .busRead _ _ _     => some .done
  | .bindFailed, .busClose         => some .outside
  | .addressed, .busClose          => some .outside
  | .done, .busClose               => some .outside
  | _, _                           => none

/-- Where a history that begins at `b` ends; none when it breaks R138 on the way. -/
def bracketRun : Bracket → List Event → Option Bracket
  | b, [] => some b
  | b, e :: es =>
    match bracketStep b e with
    | none    => none
    | some b' => bracketRun b' es

/-- A history in which every transaction is complete and well formed (R138, clauses 2 to 5). -/
def wellBracketed (h : List Event) : Bool := decide (bracketRun .outside h = some .outside)

/-- The events of an open loop that failed `r` times and then answered `ok`: `(O- Z)^r` and the last attempt (R131). -/
def openEvents (path : BusPath) (delay : Nat) : Nat → Bool → List Event
  | 0, ok     => [.busOpen path ok]
  | r + 1, ok => .busOpen path false :: .sleep delay :: openEvents path delay r ok

/-- The events of a transaction after its open loop (R136, R137): what happened on the bus, and the close. -/
def boundEvents (slave : SlaveAddr) (transfers : List Event) : List Event :=
  .busBind slave true :: transfers ++ [.busClose]

/-- The events of a read transaction of `n` bytes from `reg` that returned `data`, after `r` failed opens (R136). -/
def readEvents (s : State) (r : Nat) (slave : SlaveAddr) (reg : Byte) (n : Nat) (data : List Byte) : List Event :=
  openEvents s.busPath s.params.retryDelay r true ++
    boundEvents slave [.busWrite [reg] 1, .busRead n data.length data]

/-- The events of a write transaction of `payload` to `reg` of which `k` bytes were reported moved, after `r` failed
opens (R137). -/
def writeEvents (s : State) (r : Nat) (slave : SlaveAddr) (reg : Byte) (payload : List Byte) (k : Nat) : List Event :=
  openEvents s.busPath s.params.retryDelay r true ++ boundEvents slave [.busWrite (reg :: payload) k]

/-- The environment refuses `r` opens, within the retries, then grants the open and the bind, beginning at its answer
`j` from here (R51, R52, R131). -/
structure OpenGranted (s : State) (j r : Nat) : Prop where
  path    : s.busPath ≠ .noPath
  retries : r ≤ s.params.maxRetries
  refused : ∀ i < r, (s.env.answer (j + i)).ok = false
  opened  : (s.env.answer (j + r)).ok = true
  bound   : (s.env.answer (j + r + 1)).ok = true

/-- The same, and it moves the address byte and returns at least the `n` bytes asked for (R53, R54). It uses the answers
`j` to `j + r + 3`. -/
structure ReadGranted (s : State) (j r n : Nat) : Prop extends OpenGranted s j r where
  address : 1 ≤ (s.env.answer (j + r + 2)).count
  bytes   : n ≤ (s.env.answer (j + r + 3)).data.length

/-- The same, and it moves a buffer of the address byte and `n` payload bytes in full (R53). It uses the answers `j` to
`j + r + 2`. -/
structure WriteGranted (s : State) (j r n : Nat) : Prop extends OpenGranted s j r where
  moved : n + 1 ≤ (s.env.answer (j + r + 2)).count

/-- The bytes a read transfer of `n` bytes from `reg` of a slave returns when the environment's own bytes are `raw`: with
what the oracle fixes in their place (R61, R62). -/
def readReturned (e : Env) (slave : SlaveAddr) (reg : Byte) (n : Nat) (raw : List Byte) : List Byte :=
  match deviceAt e.board slave with
  | none     => raw
  | some dev => readData e slave dev n reg.toNat raw

/-- The codes STATUS can hold (R270: "Codes 0x06 to 0xFE are never written to STATUS"). -/
def legalStatus (b : Byte) : Bool := decide (b.toNat ≤ 5) || decide (b = 0xFF#8)

/-- The bits of the shadow other than SQWE, RS0, RS1 hold their reset value (R26). -/
def dormantBitsKept (s : State) : Prop :=
  ∀ j : Fin 8, j ≠ s.params.sqweBit → j ≠ s.params.rs0Bit → j ≠ s.params.rs1Bit →
    testBitOf s.rtcCtrl j = testBitOf Config.rtcCtrlDefault j

/-- Between commands no handle exists and no command runs (R28, R33, R138 clause 1). -/
def idle (s : State) : Prop := s.handle = .closed ∧ s.busy = false

/-- The machine's invariant. -/
structure Inv (s : State) : Prop where
  /-- R28, R33, R138 (1). -/
  idle : idle s
  /-- R138 (2) to (5). -/
  brackets : wellBracketed s.history = true
  /-- R270. -/
  status : legalStatus s.status = true
  /-- R32, R142: no count exceeds a transfer buffer. -/
  rlen : s.rlen.toNat ≤ 63
  /-- R26. -/
  dormant : dormantBitsKept s
  /-- R24: "`initialize` never stores `0x00`". -/
  gpioAddr : s.gpioAddr ≠ 0x00#7
  /-- the canonical form of the device registers (log 5). -/
  regs : s.env.devRegs.wf

/-- The RTC's control register is known to hold what the shadow holds (R26, R304); the RTC is the one that every path
token reaches (log 22). -/
def shadowAgrees (s : State) : Prop :=
  Memory.read s.env.devRegs (regKey Config.rtcAddr RtcReg.control.addr.toNat) = some s.rtcCtrl

/-- Since reset a slave's chip configuration register has been given `IOCON_INIT` in full. R303: "A model that wants the
register map to be reliable takes 'an `initialize` has succeeded since reset' as a hypothesis of its claims about the
GPIO expander"; an `initialize` that succeeded leaves this, and the history is empty after reset (R209, R300). -/
def expanderConfigured (s : State) (slave : SlaveAddr) : Prop :=
  ∃ pre post, s.history = pre ++ boundEvents slave [.busWrite [chipConfiguration, s.params.ioconInit] 2] ++ post

/-- A command that reaches the RTC's control register past the shadow: `i2cWrite` to the RTC (R307), or an
`initialize` that points the expander's address at it. -/
def bypassesShadow : Instr → Bool
  | .i2cWrite slave _ _        => decide (slave = 0x68#8)
  | .initializeGpio address _  => decide (address = 0x68#8)
  | _                          => false

end Sys2Proof.Safety
end

