-- ==== Sys2Proof/Certificates/Slice0/Obligations.lean ====
section
/-! DEFINITION. The statements about EDG-HC, from the numbered rules of spec/, and the vocabulary they are written in. -/

namespace Sys2Proof.Claims

open Sys2Proof.Machine Sys2Proof.Safety

/-! ## Commands of one template, with the base address R95 gives each -/

/-- OPC 0x20 (R175, R196, R179, R202, R200, R177, R204). -/
def pinSetters : List (Byte × (Byte → Byte → Instr)) :=
  [(0x00, .setPinDirection), (0x02, .setPinPolarity), (0x04, .setInterruptOnPin), (0x06, .setPinInterruptDefault),
    (0x08, .setPinInterruptType), (0x0C, .setPinPullup), (0x12, .writePin)]

/-- OPC 0x21 (R176, R197, R180, R203, R201, R178, R205). -/
def pinGetters : List (Byte × (Byte → Instr)) :=
  [(0x00, .getPinDirection), (0x02, .getPinPolarity), (0x04, .getInterruptOnPin), (0x06, .getPinInterruptDefault),
    (0x08, .getPinInterruptType), (0x0C, .getPinPullup), (0x12, .readPin)]

/-- OPC 0x22 (R181, R198, R189, R187, R185, R183, R194). -/
def portWriters : List (Byte × (Byte → Byte → Instr)) :=
  [(0x00, .setPortDirection), (0x02, .setPortPolarity), (0x04, .setInterruptOnPort), (0x06, .setInterruptDefaults),
    (0x08, .setInterruptType), (0x0C, .setPortPullups), (0x12, .writePort)]

/-- OPC 0x23 (R182, R199, R190, R188, R186, R184, R191, R192, R195, R193). -/
def portReaders : List (Byte × (Byte → Instr)) :=
  [(0x00, .getPortDirection), (0x02, .getPortPolarity), (0x04, .getInterruptOnPort), (0x06, .getInterruptDefaults),
    (0x08, .getInterruptType), (0x0C, .getPortPullups), (0x0E, .readInterruptStatus), (0x10, .readInterruptCapture),
    (0x12, .readPort), (0x14, .readOutputLatch)]

/-- enableOutput, disableOutput and setFrequency with the control byte each composes from the shadow (R236 to R238). -/
def controlByte (p : Params) (shadow : Byte) : Instr → Option Byte
  | .enableOutput      => some (setBitOf shadow p.sqweBit true)
  | .disableOutput     => some (setBitOf shadow p.sqweBit false)
  | .setFrequency code =>
    some (setBitOf (setBitOf shadow p.rs0Bit (decide (code ≠ 1 ∧ code ≠ 3))) p.rs1Bit (decide (code ≠ 1 ∧ code ≠ 2)))
  | _                  => none

/-- A legal pin, and the register and bit it names over a base: pins 1 to 8 bit pin-1 of the base, pins 9 to 16 bit
pin-9 of base+1 (R160, R161, R162). -/
def PinAt (base pin : Byte) (reg : Byte) (bit : Fin 8) : Prop :=
  (1 ≤ pin.toNat ∧ pin.toNat ≤ 8 ∧ reg = base ∧ bit.val = pin.toNat - 1) ∨
  (9 ≤ pin.toNat ∧ pin.toNat ≤ 16 ∧ reg = base + 1 ∧ bit.val = pin.toNat - 9)

/-- A legal port, and the register it names over a base (R161). -/
def PortAt (base port : Byte) (reg : Byte) : Prop := (port = 0 ∧ reg = base) ∨ (port = 1 ∧ reg = base + 1)

/-! ## Frames -/

/-- Every register of the block is unchanged but STATUS, RVAL, RLEN, BUSY (and HANDLE, closed again); so are the
parameters, the host's moves, and which oracle and board there are. -/
structure SameRegisters (s t : State) : Prop where
  busPath      : t.busPath = s.busPath
  gpioAddr     : t.gpioAddr = s.gpioAddr
  gpioResetPol : t.gpioResetPol = s.gpioResetPol
  rtcCtrl      : t.rtcCtrl = s.rtcCtrl
  century      : t.century = s.century
  dbuf         : t.dbuf = s.dbuf
  cmd          : t.cmd = s.cmd
  host         : t.host = s.host
  params       : t.params = s.params
  oracle       : t.env.oracle = s.env.oracle
  board        : t.env.board = s.env.board
  handle       : t.handle = .closed
  busy         : t.busy = false

/-- A read of `n` bytes from `reg` of a slave changes no byte a device register is known to hold, and nothing at all
outside the registers read. -/
structure OnlyRead (s t : State) (slave : SlaveAddr) (reg : Byte) (n : Nat) : Prop where
  known  : ∀ a b, Memory.read s.env.devRegs a = some b → Memory.read t.env.devRegs a = some b
  others : ∀ a, (∀ i < n, a ≠ regKey slave (reg.toNat + i)) →
    Memory.read t.env.devRegs a = Memory.read s.env.devRegs a

/-- A write of `n` bytes from `reg` of a slave changes nothing outside the registers written. -/
def OnlyWritten (s t : State) (slave : SlaveAddr) (reg : Byte) (n : Nat) : Prop :=
  ∀ a, (∀ i < n, a ≠ regKey slave (reg.toNat + i)) → Memory.read t.env.devRegs a = Memory.read s.env.devRegs a

/-- A write of `n` payload bytes from `reg` of a slave changes nothing outside the registers written; or it is a transfer
whose effect the source does not give (R61, U7, U9: past 0x3F of the RTC, more than one byte to the expander), and then
nothing of that slave is known any more (log 14) and no other slave is touched. -/
def WriteEffect (s t : State) (slave : SlaveAddr) (reg : Byte) (n : Nat) : Prop :=
  OnlyWritten s t slave reg n ∨
  (s.env.oracle ≠ .registerBlock ∧
    ((deviceAt s.env.board slave = some .rtc ∧ 0 < n ∧ 0x40 < reg.toNat + n) ∨
      (deviceAt s.env.board slave = some .gpio ∧ 1 < n)) ∧
    (∀ j, Memory.read t.env.devRegs (regKey slave j) = none) ∧
    ∀ a, a / 256 ≠ slave.toNat → Memory.read t.env.devRegs a = Memory.read s.env.devRegs a)

/-- Device registers are as they were. -/
def SameDevices (s t : State) : Prop := t.env.devRegs = s.env.devRegs

/-- STATUS, RVAL and RLEN after a command. -/
def Results (t : State) (status : Byte) (rval : Half) (rlen : Nat) : Prop :=
  t.status = status ∧ t.rval = rval ∧ t.rlen.toNat = rlen

/-- The state after a command that made no bus call and changed only STATUS, RVAL, RLEN and BUSY. -/
def resultOnly (s : State) (status : Byte) (rval : Half) : State :=
  { s with status := status, rval := rval, rlen := 0, busy := false }

/-! ## Legal words, arguments and codes -/

/-- The fields of a word that is a command (R94, R95, R92). -/
def LegalFields (opc a b c : Byte) : Prop :=
  opc ∈ [0x01#8, 0x12#8, 0x13#8, 0x24#8, 0x30#8, 0x31#8, 0x32#8, 0x33#8, 0x34#8, 0x35#8, 0x36#8, 0x37#8, 0x38#8, 0x39#8] ∨
  (opc ∈ [0x02#8, 0x03#8] ∧ a.toNat ≤ 0x7F ∧ c.toNat ≤ 63) ∨
  (opc ∈ [0x10#8, 0x11#8] ∧ b.toNat ≤ 7) ∨
  (opc = 0x25#8 ∧ a.toNat ≤ 0x7F) ∨
  (opc ∈ [0x20#8, 0x21#8, 0x22#8] ∧ a ∈ [0x00#8, 0x02#8, 0x04#8, 0x06#8, 0x08#8, 0x0C#8, 0x12#8]) ∨
  (opc = 0x23#8 ∧
    a ∈ [0x00#8, 0x02#8, 0x04#8, 0x06#8, 0x08#8, 0x0C#8, 0x0E#8, 0x10#8, 0x12#8, 0x14#8])

/-- A command, with its parameters, that makes at least one transaction when its arguments are legal; with the legality
of its arguments (R99, R278, R279). -/
def makesTransaction (p : Params) : Instr → Bool
  | .i2cRead slave reg len | .i2cWrite slave reg len => (Instr.i2cRead slave reg len).wf
  | .setPinDirection pin _ | .setPinPolarity pin _ | .setInterruptOnPin pin _ | .setPinInterruptDefault pin _
  | .setPinInterruptType pin _ | .setPinPullup pin _ | .writePin pin _ | .getPinDirection pin | .getPinPolarity pin
  | .getInterruptOnPin pin | .getPinInterruptDefault pin | .getPinInterruptType pin | .getPinPullup pin
  | .readPin pin => decide (1 ≤ pin.toNat) && decide (pin.toNat ≤ 16)
  | .setPortDirection port _ | .setPortPolarity port _ | .setInterruptOnPort port _ | .setInterruptDefaults port _
  | .setInterruptType port _ | .setPortPullups port _ | .writePort port _ | .getPortDirection port
  | .getPortPolarity port | .getInterruptOnPort port | .getInterruptDefaults port | .getInterruptType port
  | .getPortPullups port | .readInterruptStatus port | .readInterruptCapture port | .readPort port
  | .readOutputLatch port | .acknowledgeInterrupts port => decide (port.toNat ≤ 1)
  | .initializeGpio address _ => decide (address.toNat ≤ 0x7F)
  | .setDate | .readDate | .enableOutput | .disableOutput | .setFrequency _ => true
  | .writeMemory address length | .readMemory address length =>
    decide (address.toNat + length.toNat ≤ 0x3F) && (!p.memLowBoundEnforced || decide (8 ≤ address.toNat))
  | .busSetup _ | .setBit _ _ _ | .testBit _ _ | .resolvePin _ | .resolvePort _ _ | .bcdToDecimal _ | .decimalToBcd _
  | .setCentury _ _ => false

/-- The STATUS codes a command can end with (R279), `IllegalCommand` among them only where an operand check exists. -/
def statusCodes : Instr → List Byte
  | .busSetup _ | .bcdToDecimal _ | .decimalToBcd _ | .setCentury _ _ => [0x00]
  | .setBit _ _ _ | .testBit _ _ => [0x00, 0xFF]
  | .resolvePin _ => [0x00, 0x03]
  | .resolvePort _ _ => [0x00, 0x04]
  | .i2cRead _ _ _ | .i2cWrite _ _ _ | .initializeGpio _ _ => [0x00, 0x01, 0x02, 0xFF]
  | .setPinDirection _ _ | .setPinPolarity _ _ | .setInterruptOnPin _ _ | .setPinInterruptDefault _ _
  | .setPinInterruptType _ _ | .setPinPullup _ _ | .writePin _ _ | .getPinDirection _ | .getPinPolarity _
  | .getInterruptOnPin _ | .getPinInterruptDefault _ | .getPinInterruptType _ | .getPinPullup _
  | .readPin _ => [0x00, 0x01, 0x02, 0x03]
  | .setPortDirection _ _ | .setPortPolarity _ _ | .setInterruptOnPort _ _ | .setInterruptDefaults _ _
  | .setInterruptType _ _ | .setPortPullups _ _ | .writePort _ _ | .getPortDirection _ | .getPortPolarity _
  | .getInterruptOnPort _ | .getInterruptDefaults _ | .getInterruptType _ | .getPortPullups _
  | .readInterruptStatus _ | .readInterruptCapture _ | .readPort _ | .readOutputLatch _
  | .acknowledgeInterrupts _ => [0x00, 0x01, 0x02, 0x04]
  | .setDate | .readDate | .enableOutput | .disableOutput | .setFrequency _ => [0x00, 0x01, 0x02]
  | .writeMemory _ _ | .readMemory _ _ => [0x00, 0x01, 0x02, 0x05]

/-- A step of `initialize` after the first (R209): a register written, or a capture register read. -/
inductive InitStep
  | write (reg value : Byte)
  | acknowledge (reg : Byte)
  deriving DecidableEq, Repr

/-- The register a step touches. -/
def InitStep.reg : InitStep → Byte
  | .write reg _     => reg
  | .acknowledge reg => reg

/-- No device register but those these steps touch has changed. -/
def OnlyTouched (s t : State) (slave : SlaveAddr) (steps : List InitStep) : Prop :=
  ∀ a, (∀ x ∈ steps, a ≠ regKey slave x.reg.toNat) → Memory.read t.env.devRegs a = Memory.read s.env.devRegs a

/-- The steps of `initialize` that make a transaction, in order (R209): one without the reset flag, fifteen with it. -/
def initPlan (p : Params) (flag : Byte) : List InitStep :=
  .write 0x0A p.ioconInit ::
    if flag = 0 then []
    else
      [.write 0x12 0x00, .write 0x13 0x00, .write 0x00 p.dirAllInput, .write 0x01 p.dirAllInput, .write 0x0C 0x00,
        .write 0x0D 0x00, .write 0x02 0x00, .write 0x03 0x00, .write 0x04 0x00, .write 0x05 0x00, .write 0x06 0x00,
        .write 0x07 0x00, .acknowledge 0x10, .acknowledge 0x11]

/-- The events of a step that was done after `r` failed opens; an acknowledging read returned `b`. -/
def doneEvents (s : State) (slave : SlaveAddr) : InitStep × Nat × Byte → List Event
  | (.write reg v, r, _)     => writeEvents s r slave reg [v] 2
  | (.acknowledge reg, r, b) => readEvents s r slave reg 1 [b]

/-- The events of a step that failed: the node was not opened, or not bound, or a transfer fell short (R271, R272). -/
def failedEvents (s : State) (slave : SlaveAddr) (step : InitStep) (evs : List Event) : Prop :=
  evs = openEvents s.busPath s.params.retryDelay s.params.maxRetries false ∨
  (∃ r ≤ s.params.maxRetries,
    evs = openEvents s.busPath s.params.retryDelay r true ++ [.busBind slave false, .busClose]) ∨
  (∃ r ≤ s.params.maxRetries, match step with
    | .write reg v     => ∃ k ≤ 1, evs = writeEvents s r slave reg [v] k
    | .acknowledge reg =>
      evs = openEvents s.busPath s.params.retryDelay r true ++ boundEvents slave [.busWrite [reg] 0] ∨
      evs = readEvents s r slave reg 1 [])

/-- GPIOADDR after `initialize` (R209): zero keeps it. -/
def addressAfterInit (s : State) (address : Byte) : SlaveAddr :=
  if address = 0 then s.gpioAddr else address.setWidth 7

end Sys2Proof.Claims

open Sys2Proof Sys2Proof.Machine Sys2Proof.Safety Sys2Proof.Claims

/-! ## Encoding -/

/-- R94, R95: words written out from the tables decode to the commands they stand for. -/
def Obligations.DecodeOfWrittenOutWords : Prop :=
  decode 0x01010000#32 = .ok (.busSetup 1) ∧ decode 0x02680007#32 = .ok (.i2cRead 0x68 0x00 7) ∧
  decode 0x10A50301#32 = .ok (.setBit 0xA5 3 1) ∧ decode 0x12090FF0#32 = .ok (.resolvePin 9) ∧
  decode 0x20120B01#32 = .ok (.writePin 11 1) ∧ decode 0x210C1000#32 = .ok (.getPinPullup 16) ∧
  decode 0x22060180#32 = .ok (.setInterruptDefaults 1 0x80) ∧ decode 0x23100100#32 = .ok (.readInterruptCapture 1) ∧
  decode 0x25240001#32 = .ok (.initializeGpio 0x24 1) ∧ decode 0x32ABCDEF#32 = .ok .setDate ∧
  decode 0x3900076C#32 = .ok (.setCentury 0x07 0x6C)

/-- R90, R94, R95: every operand at every value the encoding admits survives encoding and decoding. -/
def Obligations.DecodeOfEncodeIsTheCommand : Prop :=
  ∀ i : Instr, i.wf = true → decode (encode i) = .ok i

/-- R96: the rows of the opcode table do not overlap; a word that decodes selects the row of its command; a word that
does not decode selects no row, or the row of a command with an operand check of R92. -/
def Obligations.DecodeSelectsExactlyOneTableRow : Prop :=
  (∀ w : Word, ∀ x ∈ opcodeTable, ∀ y ∈ opcodeTable, w &&& x.mask = x.bits → w &&& y.mask = y.bits → x = y) ∧
  (∀ (w : Word) (i : Instr), decode w = .ok i →
    i.wf = true ∧ ∃ x ∈ opcodeTable, x.mnemonic = i.mnemonic ∧ w &&& x.mask = x.bits) ∧
  (∀ (w : Word) (r : IllegalReason), decode w = .error r →
    (∀ x ∈ opcodeTable, w &&& x.mask ≠ x.bits) ∨
    (∃ x ∈ opcodeTable, w &&& x.mask = x.bits ∧
      x.mnemonic ∈ ["i2cRead", "i2cWrite", "setBit", "testBit", "initialize"]))

/-- R97: which words are illegal, and that an illegal word ends at once with IllegalCommand and changes nothing else. -/
def Obligations.IllegalWordsEndAtOnce : Prop :=
  (∀ w : Word, (∃ r, decode w = .error r) ↔ ¬ LegalFields (fieldOpc w) (fieldA w) (fieldB w) (fieldC w)) ∧
  (∀ (s : State) (w : Word) (rest : List HostMove) (r : IllegalReason), idle s → s.host = .writeCmd w :: rest →
    decode w = .error r →
    step s = .next { s with host := rest, cmd := w, status := 0xFF, rval := 0, rlen := 0 })

/-- R97 at the level of commands (log 17): a command whose operand fails its decode check is IllegalCommand. -/
def Obligations.IllFormedCommandsAreIllegal : Prop :=
  ∀ (i : Instr) (s : State), s.handle = .closed → i.wf = false → exec i s = .next (resultOnly s 0xFF 0)

/-! ## Steps -/

/-- R33: a host write to CMD starts the command the word encodes; the step is that command, whole. -/
def Obligations.StepRunsTheDecodedCommand : Prop :=
  ∀ (s : State) (w : Word) (rest : List HostMove) (i : Instr), s.busy = false → s.host = .writeCmd w :: rest →
    decode w = .ok i → step s = exec i { s with host := rest, cmd := w, busy := true }

/-- The model's interface (log 10): the word that `withFetchWord` places is the command the next step runs. -/
def Obligations.FetchedWordIsRunNext : Prop :=
  ∀ (s : State) (nbits w : Nat) (i : Instr), decodeTableWord nbits w = some i →
    step (s.withFetchWord nbits w) = exec i { s with cmd := BitVec.ofNat 32 (w % 2 ^ nbits), busy := true }

/-- R29, R286: with no move of the host the block keeps all its state; a host store writes one mailbox byte. -/
def Obligations.HostStoresOneMailboxByte : Prop :=
  (∀ s : State, s.busy = false → s.host = [] → step s = .next s) ∧
  (∀ (s : State) (i : Fin 64) (v : Byte) (rest : List HostMove), s.busy = false → s.host = .storeDbuf i v :: rest →
    ∃ t, step s = .next t ∧ t.dbuf[i] = v ∧ (∀ j : Fin 64, j ≠ i → t.dbuf[j] = s.dbuf[j]) ∧
      t = { s with host := rest, dbuf := t.dbuf })

/-- R36, R300: the values the spec gives at reset. -/
def Obligations.ResetValuesOfTheBlock : Prop :=
  State.reset.busPath = .noPath ∧ State.reset.gpioAddr = 0x20 ∧ State.reset.gpioResetPol = false ∧
  State.reset.rtcCtrl = 0x03 ∧ State.reset.century = 2000 ∧ State.reset.handle = .closed ∧
  State.reset.status = 0x00 ∧ State.reset.rval = 0x0000 ∧ State.reset.rlen = 0x00 ∧ State.reset.busy = false ∧
  State.reset.history = []

/-- R301: a reset in the middle of a run returns the block's registers to R36 and leaves the devices alone. -/
def Obligations.ResetOfTheBlockLeavesTheDevices : Prop :=
  ∀ (s : State) (rest : List HostMove), s.busy = false → s.host = .reset :: rest →
    ∃ t, step s = .next t ∧ t.busPath = .noPath ∧ t.gpioAddr = 0x20 ∧ t.gpioResetPol = false ∧ t.rtcCtrl = 0x03 ∧
      t.century = 2000 ∧ t.handle = .closed ∧ t.status = 0x00 ∧ t.rval = 0 ∧ t.rlen = 0 ∧ t.busy = false ∧
      t.history = [] ∧ t.host = rest ∧ t.params = s.params ∧ t.env.devRegs = s.env.devRegs ∧
      t.env.rtcPtr = s.env.rtcPtr ∧ t.env.gpioPtr = s.env.gpioPtr ∧ t.env.latchA = s.env.latchA ∧
      t.env.latchB = s.env.latchB

/-- The invariant holds at reset. -/
def Obligations.InvariantHoldsAtReset : Prop := Inv State.reset

/-- The headline invariant: brackets of the history, the idle block, legal STATUS, RLEN within a buffer, the shadow's
dormant bits, a non-zero GPIOADDR and the canonical form of the device registers survive every step. -/
def Obligations.EveryStepKeepsTheInvariant : Prop :=
  ∀ s t : State, Inv s → step s = .next t → Inv t

/-- R317, R313: from every idle state there is a step and the block is idle after it; no failure halts the block. -/
def Obligations.EveryStepEndsIdle : Prop :=
  ∀ s : State, idle s → ∃ t, step s = .next t ∧ idle t

/-- R33, R309: a step that begins while BUSY is 1 stops (log 11). -/
def Obligations.NoHostMoveWhileBusy : Prop :=
  ∀ s : State, s.busy = true → step s = .fault .hostMoveWhileBusy

/-! ## Transport -/

/-- R138: the five invariants of Transport: the handle is closed before and after every command, and the events a command
appends are complete, well-formed transactions. -/
def Obligations.HistoriesAreWellBracketed : Prop :=
  ∀ (i : Instr) (s : State), s.handle = .closed →
    ∃ t evs, exec i s = .next t ∧ t.handle = .closed ∧ t.history = s.history ++ evs ∧ wellBracketed evs = true

/-- R131, R132: `openTransaction` makes at most 1 + MAX_RETRIES open attempts with a sleep between each two, retries no
bind, leaves a handle exactly when it succeeds, and closes the node when the bind failed. -/
def Obligations.OpenTransactionIsBounded : Prop :=
  ∀ (slave : SlaveAddr) (s : State), s.handle = .closed →
    (∃ t, openTransaction slave s = .err .busUnavailable t ∧ t.handle = .closed ∧
      t.history = s.history ++ openEvents s.busPath s.params.retryDelay s.params.maxRetries false) ∨
    (∃ r ≤ s.params.maxRetries, ∃ t, openTransaction slave s = .err .busUnavailable t ∧ t.handle = .closed ∧
      t.history = s.history ++ openEvents s.busPath s.params.retryDelay r true ++ [.busBind slave false, .busClose]) ∨
    (∃ r ≤ s.params.maxRetries, ∃ t, openTransaction slave s = .ok () t ∧ t.handle = .bound slave ∧
      t.history = s.history ++ openEvents s.busPath s.params.retryDelay r true ++ [.busBind slave true])

/-- R51, R271, S7: with no bus path, or an environment that refuses every permitted attempt, a command that needs the bus
ends with BusUnavailable after 1 + MAX_RETRIES opens and MAX_RETRIES sleeps, with no transfer and no handle. -/
def Obligations.RefusedOpensEndInBusUnavailable : Prop :=
  ∀ (i : Instr) (s : State), s.handle = .closed → makesTransaction s.params i = true →
    (s.busPath = .noPath ∨ ∀ j ≤ s.params.maxRetries, (s.env.answer j).ok = false) →
    ∃ t, exec i s = .next t ∧ Results t 0x01 0 0 ∧ t.handle = .closed ∧ t.busy = false ∧ t.dbuf = s.dbuf ∧
      t.rtcCtrl = s.rtcCtrl ∧ SameDevices s t ∧
      t.history = s.history ++ openEvents s.busPath s.params.retryDelay s.params.maxRetries false

/-- R271: BusUnavailable has exactly two causes, and the transactions before it stay done. -/
def Obligations.BusUnavailableHasTwoCauses : Prop :=
  ∀ (i : Instr) (s t : State), s.handle = .closed → exec i s = .next t → t.status = 0x01 →
    t.rval = 0 ∧ t.rlen = 0 ∧
    ∃ earlier last, t.history = s.history ++ earlier ++ last ∧ wellBracketed earlier = true ∧
      (last = openEvents s.busPath s.params.retryDelay s.params.maxRetries false ∨
        ∃ r ≤ s.params.maxRetries, ∃ a, last =
          openEvents s.busPath s.params.retryDelay r true ++ [.busBind a false, .busClose])

/-- R272: after ShortTransfer RLEN is the count of the one transfer that failed, which is the last of the history. -/
def Obligations.ShortTransferReportsTheCount : Prop :=
  ∀ (i : Instr) (s t : State), s.handle = .closed → exec i s = .next t → t.status = 0x02 →
    t.rval = 0 ∧
    ∃ earlier r a transfers, t.history =
        s.history ++ earlier ++ (openEvents s.busPath s.params.retryDelay r true ++ boundEvents a transfers) ∧
      r ≤ s.params.maxRetries ∧ wellBracketed earlier = true ∧
      ((∃ buf k, transfers = [.busWrite buf k] ∧ k < buf.length ∧ t.rlen.toNat = k) ∨
        (∃ reg n, ∃ data : List Byte, transfers = [.busWrite [reg] 1, .busRead n data.length data] ∧ data.length < n ∧
          t.rlen.toNat = data.length))

/-- R139: the word of `busSetup`; it stores the path and touches nothing else but the result registers. -/
def Obligations.BusSetupStoresThePath : Prop :=
  ∀ (path b c : Byte) (s : State), decode (packWord 0x01 path b c) = .ok (.busSetup path) ∧
    exec (.busSetup path) s = .next { resultOnly s 0x00 0 with busPath := .path path }

/-- R140: a granted `i2cRead` delivers exactly `len` bytes to DBUF[0..len-1] and says so in RLEN. -/
def Obligations.I2cReadDeliversTheBytes : Prop :=
  ∀ (s : State) (slave reg len : Byte) (r : Nat), s.handle = .closed → slave.toNat ≤ 0x7F → len.toNat ≤ 63 →
    ReadGranted s 0 r len.toNat →
    ∃ t, ∃ data : List Byte, exec (.i2cRead slave reg len) s = .next t ∧ data.length = len.toNat ∧
      data = readReturned s.env (slave.setWidth 7) reg len.toNat ((s.env.answer (r + 3)).data.take len.toNat) ∧
      t.history = s.history ++ readEvents s r (slave.setWidth 7) reg len.toNat data ∧
      Results t 0x00 0 len.toNat ∧ (∀ i : Fin 64, t.dbuf[i] = data.getD i.val s.dbuf[i]) ∧
      SameRegisters s { t with dbuf := s.dbuf } ∧ OnlyRead s t (slave.setWidth 7) reg len.toNat

/-- R140, R241, R272 (`i2cRead`, and `readMemory` inside the window): on a short data read the bytes received are
delivered, RLEN counts them, the rest of DBUF is unchanged; on a short address byte or an unavailable bus DBUF is
unchanged. -/
def Obligations.I2cReadFailureDeliversThePartialData : Prop :=
  ∀ (i : Instr) (s t : State) (slave : SlaveAddr) (reg len : Byte), s.handle = .closed →
    ((∃ a : Byte, i = .i2cRead a reg len ∧ a.toNat ≤ 0x7F ∧ len.toNat ≤ 63 ∧ slave = a.setWidth 7) ∨
      (i = .readMemory reg len ∧ slave = 0x68 ∧ reg.toNat + len.toNat ≤ 0x3F ∧
        (s.params.memLowBoundEnforced = true → 0x08 ≤ reg.toNat))) →
    exec i s = .next t → t.status ≠ 0x00 →
    SameRegisters s { t with dbuf := s.dbuf } ∧ t.rval = 0 ∧ OnlyRead s t slave reg len.toNat ∧
    ((t.status = 0x01 ∧ t.rlen = 0 ∧ t.dbuf = s.dbuf) ∨
      (t.status = 0x02 ∧ ∃ data : List Byte, t.rlen.toNat = data.length ∧ data.length ≤ len.toNat ∧
        (∀ i : Fin 64, t.dbuf[i] = data.getD i.val s.dbuf[i]) ∧
        (data ≠ [] → ∃ r, t.history = s.history ++ readEvents s r slave reg len.toNat data)))

/-- R60, R141: a granted `i2cWrite` sends the register address and DBUF[0..len-1] in one transfer; DBUF is not changed.
The bytes stand in the device where the source gives the transfer's effect, nothing else changes, and an empty write
stores nothing; the transfers of log 14 alone may leave nothing known of the slave (`WriteEffect`). -/
def Obligations.I2cWriteSendsTheMailbox : Prop :=
  ∀ (s : State) (slave reg len : Byte) (r : Nat), s.handle = .closed → slave.toNat ≤ 0x7F → len.toNat ≤ 63 →
    WriteGranted s 0 r len.toNat →
    ∃ t, exec (.i2cWrite slave reg len) s = .next t ∧ Results t 0x00 0 0 ∧ SameRegisters s t ∧
      t.history = s.history ++
        writeEvents s r (slave.setWidth 7) reg (s.dbuf.toList.take len.toNat) (len.toNat + 1) ∧
      WriteEffect s t (slave.setWidth 7) reg len.toNat ∧ (len.toNat = 0 → SameDevices s t) ∧
      (slave = 0x68 → reg.toNat + len.toNat ≤ 0x40 → ∀ i : Fin 64, i.val < len.toNat →
        Memory.read t.env.devRegs (regKey 0x68 (reg.toNat + i.val)) = some s.dbuf[i])

/-- R60, R141, R272: a failed `i2cWrite` changes no register but the result registers, and RLEN is the reported count. On
a short transfer the slave has taken some `j` of the payload bytes, under `exact_prefix` those reported after the address
byte, and no device register beyond those bytes changes, but for the transfers of log 14. -/
def Obligations.I2cWriteFailureReportsTheCount : Prop :=
  ∀ (s t : State) (slave reg len : Byte), s.handle = .closed → slave.toNat ≤ 0x7F → len.toNat ≤ 63 →
    exec (.i2cWrite slave reg len) s = .next t → t.status ≠ 0x00 →
    SameRegisters s t ∧
    ((Results t 0x01 0 0 ∧ SameDevices s t) ∨
      ∃ r k j, k ≤ len.toNat ∧ j ≤ len.toNat ∧ (s.params.shortWriteEffect = .exactPrefix → j = k - 1) ∧
        Results t 0x02 0 k ∧ WriteEffect s t (slave.setWidth 7) reg j ∧
        t.history = s.history ++ writeEvents s r (slave.setWidth 7) reg (s.dbuf.toList.take len.toNat) k)

/-! ## BitOps, PinIndex, codec -/

/-- R122: the laws of the two bit functions. -/
def Obligations.SetBitThenTestBit : Prop :=
  ∀ (b : Byte) (i j : Fin 8) (v : Bool),
    testBitOf (setBitOf b i v) j = if j = i then (if v then 1 else 0) else testBitOf b j

/-- R120, R121: the words of the two bit commands, illegal with an index above 7; and for a legal index the byte with
that bit forced to whether `value` is non-zero and no other bit changed, and the bit as exactly 0 or 1. -/
def Obligations.BitCommandsReturnTheBits : Prop :=
  (∀ byte index c : Byte, index.toNat < 8 → decode (packWord 0x10 byte index c) = .ok (.setBit byte index c) ∧
    decode (packWord 0x11 byte index c) = .ok (.testBit byte index)) ∧
  (∀ byte index c : Byte, 8 ≤ index.toNat → decode (packWord 0x10 byte index c) = .error .indexAboveSeven ∧
    decode (packWord 0x11 byte index c) = .error .indexAboveSeven) ∧
  ∀ (s : State) (byte index value : Byte) (h : index.toNat < 8),
    (∃ res : Byte, exec (.setBit byte index value) s = .next (resultOnly s 0x00 (res.setWidth 16)) ∧
      ∀ j : Fin 8, res.getLsbD j.val = if j.val = index.toNat then decide (value ≠ 0) else byte.getLsbD j.val) ∧
    exec (.testBit byte index) s =
      .next (resultOnly s 0x00 (if byte.getLsbD (⟨index.toNat, h⟩ : Fin 8).val then 1 else 0))

/-- R160: the word of `resolvePin`, and its result for every pin value: the port in RVAL[15:8], the bit in RVAL[7:0]. -/
def Obligations.ResolvePinOfEveryPin : Prop :=
  ∀ (pin b c : Byte) (s : State), s.handle = .closed →
    decode (packWord 0x12 pin b c) = .ok (.resolvePin pin) ∧
    (1 ≤ pin.toNat → pin.toNat ≤ 8 →
      exec (.resolvePin pin) s = .next (resultOnly s 0x00 (BitVec.ofNat 16 (pin.toNat - 1)))) ∧
    (9 ≤ pin.toNat → pin.toNat ≤ 16 →
      exec (.resolvePin pin) s = .next (resultOnly s 0x00 (BitVec.ofNat 16 (0x100 + (pin.toNat - 9))))) ∧
    (pin.toNat = 0 ∨ 17 ≤ pin.toNat → exec (.resolvePin pin) s = .next (resultOnly s 0x03 0))

/-- R160: the map is a bijection between [1,16] and ports times bits. -/
def Obligations.PinMapIsABijection : Prop :=
  ∀ (port : Port) (bit : Fin 8), ∃ pin : Byte, resolvePinOf pin = some (port, bit) ∧ 1 ≤ pin.toNat ∧ pin.toNat ≤ 16 ∧
    ∀ pin' : Byte, resolvePinOf pin' = some (port, bit) → pin' = pin

/-- R161: the word of `resolvePort`, and its result for every tag and base. -/
def Obligations.ResolvePortOfEveryTag : Prop :=
  ∀ (port base c : Byte) (s : State), s.handle = .closed →
    decode (packWord 0x13 port base c) = .ok (.resolvePort port base) ∧
    (port = 0 → exec (.resolvePort port base) s = .next (resultOnly s 0x00 (BitVec.ofNat 16 base.toNat))) ∧
    (port = 1 → exec (.resolvePort port base) s = .next (resultOnly s 0x00 (BitVec.ofNat 16 ((base.toNat + 1) % 256)))) ∧
    (2 ≤ port.toNat → exec (.resolvePort port base) s = .next (resultOnly s 0x04 0))

/-- R233, from the formulas of R231 and R232: the round trip from decimal holds exactly up to 159; the round trip from BCD
holds where both nibbles are at most 9, and exactly where the low nibble is: R233's "exactly when both nibbles" is
narrower than its own formulas give (log 18). -/
def Obligations.CodecRoundTrips : Prop :=
  (∀ v : Byte, bcdToDecimalOf (decimalToBcdOf v) = v ↔ v.toNat ≤ 159) ∧
  (∀ b : Byte, b.toNat / 16 ≤ 9 → b.toNat % 16 ≤ 9 → decimalToBcdOf (bcdToDecimalOf b) = b) ∧
  (∀ b : Byte, decimalToBcdOf (bcdToDecimalOf b) = b ↔ b.toNat % 16 ≤ 9)

/-- R231, R232: the words of the two codec commands, and their results on every byte. -/
def Obligations.CodecCommandsReturnTheFormulas : Prop :=
  ∀ (b x y : Byte) (s : State),
    decode (packWord 0x30 b x y) = .ok (.bcdToDecimal b) ∧ decode (packWord 0x31 b x y) = .ok (.decimalToBcd b) ∧
    exec (.bcdToDecimal b) s = .next (resultOnly s 0x00 (BitVec.ofNat 16 (b.toNat / 16 * 10 + b.toNat % 16))) ∧
    exec (.decimalToBcd b) s =
      .next (resultOnly s 0x00 (BitVec.ofNat 16 ((b.toNat / 10 * 16 + b.toNat % 10) % 256)))

/-! ## GpioExpanderDriver -/

/-- R171 with R175, R196, R179, R202, R200, R177, R204 (setPinDirection, setPinPolarity, setInterruptOnPin,
setPinInterruptDefault, setPinInterruptType, setPinPullup, writePin): a granted per-pin setter reads the register of the
pin, and writes back the byte read with the pin's bit as asked, even when it is the same byte. That the device register
then holds that byte is claimed once an `initialize` has succeeded since reset (R303); the frame is by register address
(log 21). -/
def Obligations.PinSettersReadModifyWrite : Prop :=
  ∀ f ∈ pinSetters, ∀ (s : State) (pin value reg : Byte) (bit : Fin 8) (r r' : Nat), s.handle = .closed →
    PinAt f.1 pin reg bit → ReadGranted s 0 r 1 → WriteGranted s (r + 4) r' 1 →
    ∃ t cur, exec (f.2 pin value) s = .next t ∧
      [cur] = readReturned s.env s.gpioAddr reg 1 ((s.env.answer (r + 3)).data.take 1) ∧
      t.history = s.history ++ readEvents s r s.gpioAddr reg 1 [cur] ++
        writeEvents s r' s.gpioAddr reg [setBitOf cur bit (decide (value ≠ 0))] 2 ∧
      Results t 0x00 0 0 ∧ SameRegisters s t ∧ OnlyWritten s t s.gpioAddr reg 1 ∧
      ((deviceAt s.env.board s.gpioAddr).isSome → expanderConfigured s s.gpioAddr →
        Memory.read t.env.devRegs (regKey s.gpioAddr reg.toNat) = some (setBitOf cur bit (decide (value ≠ 0))))

/-- R171, R210: a per-pin setter whose read transaction failed issues no write: it ends with that failure and made one
transaction at most. -/
def Obligations.FailedReadIssuesNoWrite : Prop :=
  ∀ f ∈ pinSetters, ∀ (s s1 : State) (e : Failure) (pin value reg : Byte) (bit : Fin 8), s.handle = .closed →
    PinAt f.1 pin reg bit → memRead s.gpioAddr reg 1 (beginCommand s) = .err e s1 →
    ∃ t, exec (f.2 pin value) s = .next t ∧ t.history = s1.history ∧ t.status = e.code ∧ t.status ≠ 0x00 ∧ t.rval = 0 ∧
      SameRegisters s t ∧ OnlyRead s t s.gpioAddr reg 1 ∧
      (∀ buf k, .busWrite buf k ∈ t.history → .busWrite buf k ∈ s.history ∨ buf = [reg])

/-- R172 with R176, R197, R180, R203, R201, R178, R205 (getPinDirection, getPinPolarity, getInterruptOnPin,
getPinInterruptDefault, getPinInterruptType, getPinPullup, readPin): a granted per-pin getter makes one transaction and
returns the pin's bit as 0 or 1. -/
def Obligations.PinGettersReturnTheBit : Prop :=
  ∀ f ∈ pinGetters, ∀ (s : State) (pin reg : Byte) (bit : Fin 8) (r : Nat), s.handle = .closed →
    PinAt f.1 pin reg bit → ReadGranted s 0 r 1 →
    ∃ t cur, exec (f.2 pin) s = .next t ∧
      [cur] = readReturned s.env s.gpioAddr reg 1 ((s.env.answer (r + 3)).data.take 1) ∧
      t.history = s.history ++ readEvents s r s.gpioAddr reg 1 [cur] ∧
      Results t 0x00 (if cur.getLsbD bit.val then 1 else 0) 0 ∧ SameRegisters s t ∧ OnlyRead s t s.gpioAddr reg 1

/-- R173 with R181, R198, R189, R187, R185, R183, R194 (setPortDirection, setPortPolarity, setInterruptOnPort,
setInterruptDefaults, setInterruptType, setPortPullups, writePort): a granted per-port write makes one transaction that
writes the whole byte; the register is not read first. That the device register then holds the byte is claimed once an
`initialize` has succeeded since reset (R303); the frame is by register address (log 21). -/
def Obligations.PortWritersWriteTheByte : Prop :=
  ∀ f ∈ portWriters, ∀ (s : State) (port value reg : Byte) (r : Nat), s.handle = .closed →
    PortAt f.1 port reg → WriteGranted s 0 r 1 →
    ∃ t, exec (f.2 port value) s = .next t ∧
      t.history = s.history ++ writeEvents s r s.gpioAddr reg [value] 2 ∧
      Results t 0x00 0 0 ∧ SameRegisters s t ∧ OnlyWritten s t s.gpioAddr reg 1 ∧
      ((deviceAt s.env.board s.gpioAddr).isSome → expanderConfigured s s.gpioAddr →
        Memory.read t.env.devRegs (regKey s.gpioAddr reg.toNat) = some value)

/-- R174 with R182, R199, R190, R188, R186, R184, R191, R192, R195, R193 (getPortDirection, getPortPolarity,
getInterruptOnPort, getInterruptDefaults, getInterruptType, getPortPullups, readInterruptStatus, readInterruptCapture,
readPort, readOutputLatch): a granted per-port read makes one transaction and returns the byte. -/
def Obligations.PortReadersReturnTheByte : Prop :=
  ∀ f ∈ portReaders, ∀ (s : State) (port reg : Byte) (r : Nat), s.handle = .closed →
    PortAt f.1 port reg → ReadGranted s 0 r 1 →
    ∃ t v, exec (f.2 port) s = .next t ∧
      [v] = readReturned s.env s.gpioAddr reg 1 ((s.env.answer (r + 3)).data.take 1) ∧
      t.history = s.history ++ readEvents s r s.gpioAddr reg 1 [v] ∧
      Results t 0x00 (v.setWidth 16) 0 ∧ SameRegisters s t ∧ OnlyRead s t s.gpioAddr reg 1

/-- R208: a granted `acknowledgeInterrupts` reads the capture register of the port and delivers nothing. -/
def Obligations.AcknowledgeReadsTheCaptureRegister : Prop :=
  ∀ (s : State) (port reg : Byte) (r : Nat), s.handle = .closed → PortAt 0x10 port reg → ReadGranted s 0 r 1 →
    ∃ t v, exec (.acknowledgeInterrupts port) s = .next t ∧
      t.history = s.history ++ readEvents s r s.gpioAddr reg 1 [v] ∧
      Results t 0x00 0 0 ∧ SameRegisters s t ∧ OnlyRead s t s.gpioAddr reg 1

/-- R63, R140, R192, R208, R209 (log 7): a granted read that begins at a capture register of the expander clears the
latched condition of its port, whichever command makes it: `acknowledgeInterrupts`, `readInterruptCapture`, `i2cRead`, and
`initialize` with the reset flag, after which only an interrupt latched during its last read can stand on port A. That
0x10 and 0x11 are those registers is claimed once an `initialize` has succeeded since reset (R303); `initialize` writes the
chip configuration itself. -/
def Obligations.CaptureReadClearsTheLatch : Prop :=
  (∀ (s : State) (i : Instr) (port : Byte) (r : Nat), s.handle = .closed →
    (i = .acknowledgeInterrupts port ∨ i = .readInterruptCapture port) → port.toNat ≤ 1 →
    deviceAt s.env.board s.gpioAddr = some .gpio → expanderConfigured s s.gpioAddr → ReadGranted s 0 r 1 →
    ∃ t, exec i s = .next t ∧ (port = 0 → t.env.latchA = false) ∧ (port = 1 → t.env.latchB = false)) ∧
  (∀ (s : State) (slave reg len : Byte) (r : Nat), s.handle = .closed → slave.toNat ≤ 0x7F →
    1 ≤ len.toNat → len.toNat ≤ 63 → deviceAt s.env.board (slave.setWidth 7) = some .gpio →
    expanderConfigured s (slave.setWidth 7) → ReadGranted s 0 r len.toNat →
    ∃ t, exec (.i2cRead slave reg len) s = .next t ∧
      (reg = 0x10 → t.env.latchA = false) ∧ (reg = 0x11 → t.env.latchB = false)) ∧
  (∀ (s : State) (address flag : Byte), s.handle = .closed → address.toNat ≤ 0x7F → flag ≠ 0 →
    deviceAt s.env.board (addressAfterInit s address) = some .gpio →
    (∀ j < 13, WriteGranted s (3 * j) 0 1) → ReadGranted s 39 0 1 → ReadGranted s 43 0 1 →
    ∃ t, exec (.initializeGpio address flag) s = .next t ∧ t.env.latchB = false ∧
      ((∀ j < 4, (s.env.answer (43 + j)).irqA = false) → t.env.latchA = false))

/-- R273: an invalid pin or port ends the command with no event and no change but the result registers. -/
def Obligations.InvalidPinsAndPortsMakeNoEvent : Prop :=
  ∀ (s : State) (x value : Byte), s.handle = .closed →
    (x.toNat = 0 ∨ 17 ≤ x.toNat →
      (∀ f ∈ pinSetters, exec (f.2 x value) s = .next (resultOnly s 0x03 0)) ∧
      (∀ f ∈ pinGetters, exec (f.2 x) s = .next (resultOnly s 0x03 0))) ∧
    (2 ≤ x.toNat →
      (∀ f ∈ portWriters, exec (f.2 x value) s = .next (resultOnly s 0x04 0)) ∧
      (∀ f ∈ portReaders, exec (f.2 x) s = .next (resultOnly s 0x04 0)) ∧
      exec (.acknowledgeInterrupts x) s = .next (resultOnly s 0x04 0))

/-- R209 without the reset flag: one transaction, the chip configuration register. -/
def Obligations.InitializeWithoutResetWritesOneRegister : Prop :=
  ∀ (s : State) (address : Byte) (r : Nat), s.handle = .closed → address.toNat ≤ 0x7F → WriteGranted s 0 r 1 →
    ∃ t, exec (.initializeGpio address 0) s = .next t ∧ t.gpioAddr = addressAfterInit s address ∧
      t.gpioResetPol = false ∧ Results t 0x00 0 0 ∧
      t.history = s.history ++ writeEvents s r (addressAfterInit s address) 0x0A [s.params.ioconInit] 2 ∧
      SameRegisters s { t with gpioAddr := s.gpioAddr, gpioResetPol := s.gpioResetPol } ∧
      OnlyWritten s t (addressAfterInit s address) 0x0A 1

/-- R209 with the reset flag, every open granted at once: the fifteen transactions in order, interrupts acknowledged
last. -/
def Obligations.InitializeWithResetMakesFifteenTransactions : Prop :=
  ∀ (s : State) (address flag : Byte), s.handle = .closed → address.toNat ≤ 0x7F → flag ≠ 0 →
    (∀ j < 13, WriteGranted s (3 * j) 0 1) → ReadGranted s 39 0 1 → ReadGranted s 43 0 1 →
    ∃ t a b, exec (.initializeGpio address flag) s = .next t ∧ t.gpioAddr = addressAfterInit s address ∧
      t.gpioResetPol = true ∧ Results t 0x00 0 0 ∧
      t.history = s.history ++
        ((initPlan s.params flag).take 13).flatMap (fun x => doneEvents s (addressAfterInit s address) (x, 0, 0)) ++
        readEvents s 0 (addressAfterInit s address) 0x10 1 [a] ++
        readEvents s 0 (addressAfterInit s address) 0x11 1 [b] ∧
      SameRegisters s { t with gpioAddr := s.gpioAddr, gpioResetPol := s.gpioResetPol } ∧
      (∀ reg ∈ [0x10, 0x11], ∀ v,
        Memory.read s.env.devRegs (regKey (addressAfterInit s address) reg) = some v →
        Memory.read t.env.devRegs (regKey (addressAfterInit s address) reg) = some v) ∧
      (∀ a, (∀ reg ∈ [0x0A, 0x12, 0x13, 0x00, 0x01, 0x0C, 0x0D, 0x02, 0x03, 0x04, 0x05, 0x06, 0x07, 0x10, 0x11],
          a ≠ regKey (addressAfterInit s address) reg) →
        Memory.read t.env.devRegs a = Memory.read s.env.devRegs a)

/-- R209, R210, R310: whatever the bus answers, `initialize` keeps the new address and the policy; the steps done are the
first ones of its plan, in order and each once; when it fails, one failed step follows them and none after it. No device
register changes but those of the steps done, and of the failed one after a short transfer; the capture registers, only
read, keep what they are known to hold. After a success the expander is configured (R303). -/
def Obligations.InitializeStopsAtTheFirstFailedStep : Prop :=
  ∀ (s : State) (address flag : Byte), s.handle = .closed → address.toNat ≤ 0x7F →
    ∃ (t : State) (done : List (InitStep × Nat × Byte)) (failed : List Event), exec (.initializeGpio address flag) s = .next t ∧
      t.gpioAddr = addressAfterInit s address ∧ t.gpioResetPol = decide (flag ≠ 0) ∧
      SameRegisters s { t with gpioAddr := s.gpioAddr, gpioResetPol := s.gpioResetPol } ∧
      t.history = s.history ++ done.flatMap (doneEvents s (addressAfterInit s address)) ++ failed ∧
      ((t.status = 0x00 ∧ done.map Prod.fst = initPlan s.params flag ∧ failed = [] ∧
          OnlyTouched s t (addressAfterInit s address) (done.map Prod.fst) ∧
          expanderConfigured t (addressAfterInit s address)) ∨
        ∃ next rest, done.map Prod.fst ++ next :: rest = initPlan s.params flag ∧
          failedEvents s (addressAfterInit s address) next failed ∧
          ((t.status = 0x01 ∧ OnlyTouched s t (addressAfterInit s address) (done.map Prod.fst)) ∨
            (t.status = 0x02 ∧ OnlyTouched s t (addressAfterInit s address) (done.map Prod.fst ++ [next])))) ∧
      (∀ reg ∈ [0x10, 0x11], ∀ v,
        Memory.read s.env.devRegs (regKey (addressAfterInit s address) reg) = some v →
        Memory.read t.env.devRegs (regKey (addressAfterInit s address) reg) = some v)

/-! ## RtcDriver -/

/-- R234: a granted `setDate` writes the seven encoded fields in one transfer; DBUF is not changed. -/
def Obligations.SetDateWritesSevenRegisters : Prop :=
  ∀ (s : State) (r : Nat), s.handle = .closed → WriteGranted s 0 r 7 →
    ∃ t, exec .setDate s = .next t ∧
      t.history = s.history ++ writeEvents s r 0x68 0x00
        [decimalToBcdOf s.dbuf[0], decimalToBcdOf s.dbuf[1], decimalToBcdOf s.dbuf[2], decimalToBcdOf s.dbuf[3],
          decimalToBcdOf s.dbuf[4], decimalToBcdOf (s.dbuf[5] + 1),
          decimalToBcdOf (BitVec.ofNat 8 ((s.dbuf[7].toNat * 256 + s.dbuf[6].toNat) % 100))] 8 ∧
      Results t 0x00 0 0 ∧ SameRegisters s t ∧ OnlyWritten s t 0x68 0x00 7

/-- R235: a granted `readDate` decodes the seven bytes into DBUF[0..7]; the rest of DBUF is unchanged. -/
def Obligations.ReadDateDecodesSevenRegisters : Prop :=
  ∀ (s : State) (r : Nat), s.handle = .closed → ReadGranted s 0 r 7 →
    ∃ t, ∃ b : Fin 7 → Byte, exec .readDate s = .next t ∧
      List.ofFn b = readReturned s.env 0x68 0x00 7 ((s.env.answer (r + 3)).data.take 7) ∧
      t.history = s.history ++ readEvents s r 0x68 0x00 7 (List.ofFn b) ∧
      Results t 0x00 0 8 ∧
      t.dbuf[0] = bcdToDecimalOf (b 0) ∧ t.dbuf[1] = bcdToDecimalOf (b 1) ∧ t.dbuf[2] = bcdToDecimalOf (b 2) ∧
      t.dbuf[3] = bcdToDecimalOf (b 3) ∧ t.dbuf[4] = bcdToDecimalOf (b 4) ∧ t.dbuf[5] = bcdToDecimalOf (b 5) - 1 ∧
      (t.dbuf[7].toNat * 256 + t.dbuf[6].toNat : Int) =
        ((bcdToDecimalOf (b 6)).toNat + s.century.toNat - 1900 : Int) % 65536 ∧
      (∀ i : Fin 64, 8 ≤ i.val → t.dbuf[i] = s.dbuf[i]) ∧
      SameRegisters s { t with dbuf := s.dbuf } ∧ OnlyRead s t 0x68 0x00 7

/-- R234, R235, R279: a failed `setDate` or `readDate` leaves DBUF and every other register unchanged; `setDate` can have
stored into the seven calendar registers only, and `readDate` stores nothing. -/
def Obligations.FailedCalendarCommandsLeaveDbuf : Prop :=
  ∀ (i : Instr) (s t : State), i = .setDate ∨ i = .readDate → s.handle = .closed → exec i s = .next t →
    t.status ≠ 0x00 → SameRegisters s t ∧ t.rval = 0 ∧
    (t.status = 0x01 ∧ t.rlen = 0 ∧ SameDevices s t ∨ t.status = 0x02 ∧ t.rlen.toNat ≤ 7) ∧
    (i = .setDate → OnlyWritten s t 0x68 0x00 7) ∧
    (i = .readDate → t.rlen.toNat ≤ 6 ∧ OnlyRead s t 0x68 0x00 7)

/-- R236, R237, R238 (enableOutput, disableOutput, setFrequency): a granted output command writes the whole composed
control byte and the shadow takes it. -/
def Obligations.OutputCommandsWriteTheControlByte : Prop :=
  ∀ (i : Instr) (s : State) (new : Byte) (r : Nat), s.handle = .closed →
    controlByte s.params s.rtcCtrl i = some new → WriteGranted s 0 r 1 →
    ∃ t, exec i s = .next t ∧ t.rtcCtrl = new ∧ t.history = s.history ++ writeEvents s r 0x68 0x07 [new] 2 ∧
      Results t 0x00 0 0 ∧ SameRegisters s { t with rtcCtrl := s.rtcCtrl } ∧ OnlyWritten s t 0x68 0x07 1 ∧
      shadowAgrees t

/-- R236, decision D27: when the write fails the shadow keeps its value. -/
def Obligations.FailedControlWriteKeepsTheShadow : Prop :=
  ∀ (i : Instr) (s t : State) (new : Byte), s.handle = .closed → controlByte s.params s.rtcCtrl i = some new →
    exec i s = .next t → t.status ≠ 0x00 → SameRegisters s t ∧ t.rval = 0 ∧ OnlyWritten s t 0x68 0x07 1

/-- R238: the frequency table on the bits RS0 and RS1, for any two distinct bit positions; every other bit is kept. -/
def Obligations.FrequencyTable : Prop :=
  ∀ (p : Params) (shadow code : Byte), p.rs0Bit ≠ p.rs1Bit →
    testBitOf (frequencyControl p shadow code) p.rs0Bit = (if code = 1 ∨ code = 3 then 0 else 1) ∧
    testBitOf (frequencyControl p shadow code) p.rs1Bit = (if code = 1 ∨ code = 2 then 0 else 1) ∧
    ∀ j : Fin 8, j ≠ p.rs0Bit → j ≠ p.rs1Bit → testBitOf (frequencyControl p shadow code) j = testBitOf shadow j

/-- R240, R274: the range check, and that a request beyond the window makes no event and touches nothing. -/
def Obligations.MemoryRangeCheck : Prop :=
  ∀ (s : State) (address length : Byte), s.handle = .closed →
    ¬ (address.toNat + length.toNat ≤ 0x3F ∧ (s.params.memLowBoundEnforced = true → 0x08 ≤ address.toNat)) →
    exec (.writeMemory address length) s = .next (resultOnly s 0x05 0) ∧
    exec (.readMemory address length) s = .next (resultOnly s 0x05 0)

/-- R239: a granted `writeMemory` in the window sends DBUF[0..length-1] in one transfer. -/
def Obligations.WriteMemorySendsTheMailbox : Prop :=
  ∀ (s : State) (address length : Byte) (r : Nat), s.handle = .closed →
    address.toNat + length.toNat ≤ 0x3F → (s.params.memLowBoundEnforced = true → 0x08 ≤ address.toNat) →
    WriteGranted s 0 r length.toNat →
    ∃ t, exec (.writeMemory address length) s = .next t ∧
      t.history = s.history ++ writeEvents s r 0x68 address (s.dbuf.toList.take length.toNat) (length.toNat + 1) ∧
      Results t 0x00 0 0 ∧ SameRegisters s t ∧ OnlyWritten s t 0x68 address length.toNat ∧
      (∀ i : Fin 64, i.val < length.toNat →
        Memory.read t.env.devRegs (regKey 0x68 (address.toNat + i.val)) = some s.dbuf[i])

/-- R241: a granted `readMemory` in the window delivers exactly `length` bytes. -/
def Obligations.ReadMemoryDeliversTheBytes : Prop :=
  ∀ (s : State) (address length : Byte) (r : Nat), s.handle = .closed →
    address.toNat + length.toNat ≤ 0x3F → (s.params.memLowBoundEnforced = true → 0x08 ≤ address.toNat) →
    ReadGranted s 0 r length.toNat →
    ∃ t, ∃ data : List Byte, exec (.readMemory address length) s = .next t ∧ data.length = length.toNat ∧
      data = readReturned s.env 0x68 address length.toNat ((s.env.answer (r + 3)).data.take length.toNat) ∧
      t.history = s.history ++ readEvents s r 0x68 address length.toNat data ∧
      Results t 0x00 0 length.toNat ∧ (∀ i : Fin 64, t.dbuf[i] = data.getD i.val s.dbuf[i]) ∧
      SameRegisters s { t with dbuf := s.dbuf } ∧ OnlyRead s t 0x68 address length.toNat

/-- R242: under the register-block oracle, and under the per-register oracle with the lower bound enforced (logs 5, 8),
`writeMemory` then `readMemory` of the same range returns the bytes written, whatever the host stored in DBUF in
between. -/
def Obligations.MemoryWindowRoundTrip : Prop :=
  ∀ (s t u v : State) (address length : Byte) (mailbox : Vector Byte 64), s.handle = .closed →
    (s.env.oracle = .registerBlock ∨ (s.env.oracle = .perRegister ∧ s.params.memLowBoundEnforced = true)) →
    exec (.writeMemory address length) s = .next t → t.status = 0x00 →
    u = { t with dbuf := mailbox } → exec (.readMemory address length) u = .next v → v.status = 0x00 →
    v.dbuf.toList.take length.toNat = s.dbuf.toList.take length.toNat

/-- R244: under the register-block oracle a Calendar Value within its ranges comes back from `setDate` and `readDate`,
the year as (y mod 100) + CENTURY - 1900. -/
def Obligations.CalendarRoundTrip : Prop :=
  ∀ (s t u v : State) (mailbox : Vector Byte 64), s.handle = .closed → s.env.oracle = .registerBlock →
    s.dbuf[0].toNat ≤ 59 → s.dbuf[1].toNat ≤ 59 → s.dbuf[2].toNat ≤ 23 → s.dbuf[3].toNat ≤ 6 →
    1 ≤ s.dbuf[4].toNat → s.dbuf[4].toNat ≤ 31 → s.dbuf[5].toNat ≤ 11 →
    exec .setDate s = .next t → t.status = 0x00 →
    u = { t with dbuf := mailbox } → exec .readDate u = .next v → v.status = 0x00 →
    v.dbuf[0] = s.dbuf[0] ∧ v.dbuf[1] = s.dbuf[1] ∧ v.dbuf[2] = s.dbuf[2] ∧ v.dbuf[3] = s.dbuf[3] ∧
    v.dbuf[4] = s.dbuf[4] ∧ v.dbuf[5] = s.dbuf[5] ∧
    (v.dbuf[7].toNat * 256 + v.dbuf[6].toNat : Int) =
      ((s.dbuf[7].toNat * 256 + s.dbuf[6].toNat : Int) % 100 + s.century.toNat - 1900) % 65536

/-- R243: the word of `setCentury`; it stores any 16-bit value and touches nothing else but the result registers. -/
def Obligations.SetCenturyStoresTheConstant : Prop :=
  ∀ (a high low : Byte) (s : State), decode (packWord 0x39 a high low) = .ok (.setCentury high low) ∧
    ∃ t, exec (.setCentury high low) s = .next t ∧
    t.century.toNat = high.toNat * 256 + low.toNat ∧ t = { resultOnly s 0x00 0 with century := t.century }

/-- R26, R304, R307: once the RTC's control register is known to hold the shadow, it does so after every command, when a
short write stores exactly its prefix, the range check has its lower bound, and nothing bypasses the shadow: no
`i2cWrite` to the RTC and GPIOADDR not the RTC's address. That a `busSetup` with another path keeps it so is the model's
choice: every path token reaches the same RTC (log 22). -/
def Obligations.ShadowStaysEqualToTheDevice : Prop :=
  ∀ (i : Instr) (s t : State), s.handle = .closed → s.params.shortWriteEffect = .exactPrefix →
    s.params.memLowBoundEnforced = true → s.gpioAddr ≠ 0x68 → bypassesShadow i = false → shadowAgrees s →
    exec i s = .next t → shadowAgrees t ∧ t.gpioAddr ≠ 0x68

/-! ## Whole machine -/

/-- R279: the STATUS codes each command can end with. -/
def Obligations.StatusCodesOfEachCommand : Prop :=
  ∀ (i : Instr) (s : State), s.handle = .closed → ∃ t, exec i s = .next t ∧ t.status ∈ statusCodes i

/-- R277: failures leave no sticky state: no command's outcome depends on STATUS, RVAL, RLEN or BUSY. -/
def Obligations.NoCommandReadsTheResultRegisters : Prop :=
  ∀ (i : Instr) (s : State) (a b : Byte) (v : Half) (w : Bool),
    exec i { s with status := a, rval := v, rlen := b, busy := w } = exec i s

/-- R23 to R29, R140, R235, R241: which command can change which register of the block. -/
def Obligations.RegistersOnlyTheirCommandsWrite : Prop :=
  ∀ (i : Instr) (s t : State), s.handle = .closed → exec i s = .next t →
    t.cmd = s.cmd ∧ t.host = s.host ∧ t.params = s.params ∧ t.env.oracle = s.env.oracle ∧ t.env.board = s.env.board ∧
    (t.busPath ≠ s.busPath → ∃ p, i = .busSetup p) ∧
    (t.gpioAddr ≠ s.gpioAddr ∨ t.gpioResetPol ≠ s.gpioResetPol → ∃ a f, i = .initializeGpio a f) ∧
    (t.rtcCtrl ≠ s.rtcCtrl → i = .enableOutput ∨ i = .disableOutput ∨ ∃ c, i = .setFrequency c) ∧
    (t.century ≠ s.century → ∃ h l, i = .setCentury h l) ∧
    (t.dbuf ≠ s.dbuf → (∃ a r n, i = .i2cRead a r n) ∨ i = .readDate ∨ ∃ a n, i = .readMemory a n)

/-- R66, R245: no driver command reads the RTC's control register: with GPIOADDR not the RTC's address, only `i2cRead`
makes a read transfer of slave 0x68 that reaches register 0x07, wherever it begins. -/
def Obligations.NoDriverCommandReadsTheControlRegister : Prop :=
  ∀ (i : Instr) (s t : State), s.handle = .closed → s.params.memLowBoundEnforced = true → s.gpioAddr ≠ 0x68 →
    (∀ a r n, i ≠ .i2cRead a r n) → (∀ f, i ≠ .initializeGpio 0x68 f) → exec i s = .next t →
    ∀ evs, t.history = s.history ++ evs → ∀ (reg : Byte) (n : Nat), (∃ j < n, regKey 0x68 (reg.toNat + j) = regKey 0x68 7) →
      ∀ pre post k data, evs ≠ pre ++ [.busBind 0x68 true, .busWrite [reg] 1, .busRead n k data] ++ post

/-- R60: under `exact_prefix` a bound device stores the payload bytes reported moved, at consecutive registers from the
address byte on (register-block oracle). -/
def Obligations.WriteTransferStoresConsecutively : Prop :=
  ∀ (s : State) (slave : SlaveAddr) (reg : Byte) (payload : List Byte), s.handle = .bound slave →
    s.env.oracle = .registerBlock → s.params.shortWriteEffect = .exactPrefix → payload.length ≤ 63 →
    (deviceAt s.env.board slave).isSome →
    ∀ k t, busWrite (reg :: payload) s = (k, t) →
      (∀ i, (h : i < payload.length) → i + 1 < k →
        Memory.read t.env.devRegs (regKey slave (reg.toNat + i)) = some payload[i]) ∧
      (∀ a, (∀ i, i + 1 < k → a ≠ regKey slave (reg.toNat + i)) →
        Memory.read t.env.devRegs a = Memory.read s.env.devRegs a)
end

