-- ==== Sys2Proof/Laws/Memory.lean ====
section
/-! SUPPORT. What the operations on device registers do: reads after writes, and that each keeps the canonical form. -/

namespace Sys2Proof.Machine

theorem Memory.read_write_same (m : Memory) (a : Nat) (b : Byte) : (Memory.write m a b).read a = some b := by
  induction m with
  | nil => simp [Memory.write, Memory.read]
  | cons c m ih =>
    obtain ⟨k, v⟩ := c
    unfold Memory.write
    split
    · simp [Memory.read]
    · split
      · simp [Memory.read]
      · rename_i h; simp [Memory.read, h, ih]

theorem Memory.read_write_other (m : Memory) {a a' : Nat} (b : Byte) (h : a' ≠ a) :
    (Memory.write m a b).read a' = m.read a' := by
  induction m with
  | nil => simp [Memory.write, Memory.read, h]
  | cons c m ih =>
    obtain ⟨k, v⟩ := c
    unfold Memory.write
    split
    · simp [Memory.read, h]
    · split
      · rename_i hk; subst hk; simp [Memory.read, h]
      · simp only [Memory.read, ih]

theorem Memory.read_write (m : Memory) (a a' : Nat) (b : Byte) :
    (Memory.write m a b).read a' = if a' = a then some b else m.read a' := by
  split
  · subst_vars; exact Memory.read_write_same ..
  · exact Memory.read_write_other _ _ ‹_›

/-- Every key of a written list is the key written or was there before. -/
theorem Memory.mem_write {m : Memory} {a : Nat} {b : Byte} {c : Host.Cell} (h : c ∈ Memory.write m a b) :
    c = (a, b) ∨ c ∈ m := by
  induction m with
  | nil => simpa [Memory.write] using h
  | cons d m ih =>
    obtain ⟨k, v⟩ := d
    unfold Memory.write at h
    split at h
    · simp at h ⊢; tauto
    · split at h
      · simp at h ⊢; tauto
      · simp at h ⊢; tauto

theorem Memory.write_wf {m : Memory} (h : m.wf) (a : Nat) (b : Byte) : (Memory.write m a b).wf := by
  induction m with
  | nil => simp [Memory.write]
  | cons d m ih =>
    obtain ⟨k, v⟩ := d
    obtain ⟨hk, hm⟩ := List.pairwise_cons.1 h
    unfold Memory.write
    split
    · rename_i hlt
      refine List.pairwise_cons.2 ⟨fun c hc => ?_, h⟩
      rcases List.mem_cons.1 hc with rfl | hc
      · exact hlt
      · exact hlt.trans (hk c hc)
    · split
      · rename_i heq; subst heq
        exact List.pairwise_cons.2 ⟨hk, hm⟩
      · refine List.pairwise_cons.2 ⟨fun c hc => ?_, ih hm⟩
        rcases Memory.mem_write hc with rfl | hc
        · show k < a
          omega
        · exact hk c hc

theorem storeBytes_wf (slave : SlaveAddr) (bs : List Byte) :
    ∀ (reg : Nat) {m : Memory}, m.wf → (storeBytes slave reg bs m).wf := by
  induction bs with
  | nil => intro _ _ h; exact h
  | cons b bs ih => intro reg m h; exact ih _ (Memory.write_wf h _ _)

theorem forgetSlave_wf (slave : SlaveAddr) {m : Memory} (h : m.wf) : (forgetSlave slave m).wf := List.Pairwise.filter _ h

/-- A register outside the bytes stored reads as before. -/
theorem storeBytes_read_other (slave : SlaveAddr) {a : Nat} (bs : List Byte) :
    ∀ (reg : Nat) (m : Memory), (∀ i < bs.length, a ≠ regKey slave (reg + i)) →
      (storeBytes slave reg bs m).read a = m.read a := by
  induction bs with
  | nil => intros; rfl
  | cons b bs ih =>
    intro reg m h
    rw [storeBytes, ih (reg + 1), Memory.read_write_other _ _ (by simpa using h 0 (by simp))]
    intro i hi
    have := h (i + 1) (by simpa using hi)
    rwa [show reg + (i + 1) = reg + 1 + i by omega] at this

/-- Keys of two registers of one slave are equal exactly when the registers are, modulo 256. -/
theorem regKey_inj {slave : SlaveAddr} {r r' : Nat} : regKey slave r = regKey slave r' ↔ r % 256 = r' % 256 := by
  unfold regKey; omega

/-- Keys of registers of different slaves differ. -/
theorem regKey_slave {a a' : SlaveAddr} {r r' : Nat} (h : regKey a r = regKey a' r') : a = a' := by
  unfold regKey at h
  have h1 := Nat.mod_lt r (show 256 > 0 by omega)
  have h2 := Nat.mod_lt r' (show 256 > 0 by omega)
  exact BitVec.eq_of_toNat_eq (by omega)

theorem regKey_div {slave : SlaveAddr} {r : Nat} : regKey slave r / 256 = slave.toNat := by
  unfold regKey; omega

/-- Bytes stored read back, when there are at most 256 of them. -/
theorem storeBytes_read_stored (slave : SlaveAddr) (bs : List Byte) :
    ∀ (reg : Nat) (m : Memory) (i : Nat), bs.length ≤ 256 → (h : i < bs.length) →
      (storeBytes slave reg bs m).read (regKey slave (reg + i)) = some bs[i] := by
  induction bs with
  | nil => intro _ _ _ _ h; simp at h
  | cons b bs ih =>
    intro reg m i hlen h
    simp only [List.length_cons] at hlen h
    cases i with
    | zero =>
      rw [storeBytes, storeBytes_read_other]
      · simpa using Memory.read_write_same m (regKey slave reg) b
      · intro i hi he
        rw [regKey_inj] at he
        omega
    | succ i =>
      have := ih (reg + 1) (Memory.write m (regKey slave reg) b) i (by omega) (by omega)
      rw [show reg + 1 + i = reg + (i + 1) by omega] at this
      simpa [storeBytes] using this

/-- A forgotten slave's registers hold no known byte. -/
theorem forgetSlave_read_same (slave : SlaveAddr) (m : Memory) (r : Nat) :
    (forgetSlave slave m).read (regKey slave r) = none := by
  induction m with
  | nil => rfl
  | cons c m ih =>
    obtain ⟨k, v⟩ := c
    unfold forgetSlave at ih ⊢
    rw [List.filter_cons]
    split
    · rename_i h
      have hk : regKey slave r ≠ k := by
        rintro rfl
        simp [regKey_div] at h
      simpa [Memory.read, hk] using ih
    · exact ih

/-- Registers of other slaves read as before. -/
theorem forgetSlave_read_other {slave : SlaveAddr} {a : Nat} (m : Memory) (h : a / 256 ≠ slave.toNat) :
    (forgetSlave slave m).read a = m.read a := by
  induction m with
  | nil => rfl
  | cons c m ih =>
    obtain ⟨k, v⟩ := c
    unfold forgetSlave at ih ⊢
    rw [List.filter_cons]
    split
    · simp only [Memory.read, ih]
    · rename_i hk
      have : a ≠ k := by
        rintro rfl
        simp [h] at hk
      simpa [Memory.read, this] using ih

end Sys2Proof.Machine
end

