-- ==== Sys2Proof/Laws/State.lean ====
section
/-! SUPPORT. One lemma per field per named update of State, true by rfl, so that no later proof unfolds an update. -/

namespace Sys2Proof.Machine

variable (s : State)

/-! ### record -/

@[simp] theorem record_busPath (ev : Event) : (record ev s).busPath = s.busPath := rfl
@[simp] theorem record_gpioAddr (ev : Event) : (record ev s).gpioAddr = s.gpioAddr := rfl
@[simp] theorem record_gpioResetPol (ev : Event) : (record ev s).gpioResetPol = s.gpioResetPol := rfl
@[simp] theorem record_rtcCtrl (ev : Event) : (record ev s).rtcCtrl = s.rtcCtrl := rfl
@[simp] theorem record_century (ev : Event) : (record ev s).century = s.century := rfl
@[simp] theorem record_handle (ev : Event) : (record ev s).handle = s.handle := rfl
@[simp] theorem record_dbuf (ev : Event) : (record ev s).dbuf = s.dbuf := rfl
@[simp] theorem record_status (ev : Event) : (record ev s).status = s.status := rfl
@[simp] theorem record_rval (ev : Event) : (record ev s).rval = s.rval := rfl
@[simp] theorem record_rlen (ev : Event) : (record ev s).rlen = s.rlen := rfl
@[simp] theorem record_cmd (ev : Event) : (record ev s).cmd = s.cmd := rfl
@[simp] theorem record_busy (ev : Event) : (record ev s).busy = s.busy := rfl
@[simp] theorem record_history (ev : Event) : (record ev s).history = s.history ++ [ev] := rfl
@[simp] theorem record_host (ev : Event) : (record ev s).host = s.host := rfl
@[simp] theorem record_params (ev : Event) : (record ev s).params = s.params := rfl
@[simp] theorem record_env (ev : Event) : (record ev s).env = s.env := rfl

/-! ### setEnv -/

@[simp] theorem setEnv_busPath (e : Env) : (setEnv e s).busPath = s.busPath := rfl
@[simp] theorem setEnv_gpioAddr (e : Env) : (setEnv e s).gpioAddr = s.gpioAddr := rfl
@[simp] theorem setEnv_gpioResetPol (e : Env) : (setEnv e s).gpioResetPol = s.gpioResetPol := rfl
@[simp] theorem setEnv_rtcCtrl (e : Env) : (setEnv e s).rtcCtrl = s.rtcCtrl := rfl
@[simp] theorem setEnv_century (e : Env) : (setEnv e s).century = s.century := rfl
@[simp] theorem setEnv_handle (e : Env) : (setEnv e s).handle = s.handle := rfl
@[simp] theorem setEnv_dbuf (e : Env) : (setEnv e s).dbuf = s.dbuf := rfl
@[simp] theorem setEnv_status (e : Env) : (setEnv e s).status = s.status := rfl
@[simp] theorem setEnv_rval (e : Env) : (setEnv e s).rval = s.rval := rfl
@[simp] theorem setEnv_rlen (e : Env) : (setEnv e s).rlen = s.rlen := rfl
@[simp] theorem setEnv_cmd (e : Env) : (setEnv e s).cmd = s.cmd := rfl
@[simp] theorem setEnv_busy (e : Env) : (setEnv e s).busy = s.busy := rfl
@[simp] theorem setEnv_history (e : Env) : (setEnv e s).history = s.history := rfl
@[simp] theorem setEnv_host (e : Env) : (setEnv e s).host = s.host := rfl
@[simp] theorem setEnv_params (e : Env) : (setEnv e s).params = s.params := rfl
@[simp] theorem setEnv_env (e : Env) : (setEnv e s).env = e := rfl

/-! ### setHandle -/

@[simp] theorem setHandle_busPath (h : Handle) : (setHandle h s).busPath = s.busPath := rfl
@[simp] theorem setHandle_gpioAddr (h : Handle) : (setHandle h s).gpioAddr = s.gpioAddr := rfl
@[simp] theorem setHandle_gpioResetPol (h : Handle) : (setHandle h s).gpioResetPol = s.gpioResetPol := rfl
@[simp] theorem setHandle_rtcCtrl (h : Handle) : (setHandle h s).rtcCtrl = s.rtcCtrl := rfl
@[simp] theorem setHandle_century (h : Handle) : (setHandle h s).century = s.century := rfl
@[simp] theorem setHandle_handle (h : Handle) : (setHandle h s).handle = h := rfl
@[simp] theorem setHandle_dbuf (h : Handle) : (setHandle h s).dbuf = s.dbuf := rfl
@[simp] theorem setHandle_status (h : Handle) : (setHandle h s).status = s.status := rfl
@[simp] theorem setHandle_rval (h : Handle) : (setHandle h s).rval = s.rval := rfl
@[simp] theorem setHandle_rlen (h : Handle) : (setHandle h s).rlen = s.rlen := rfl
@[simp] theorem setHandle_cmd (h : Handle) : (setHandle h s).cmd = s.cmd := rfl
@[simp] theorem setHandle_busy (h : Handle) : (setHandle h s).busy = s.busy := rfl
@[simp] theorem setHandle_history (h : Handle) : (setHandle h s).history = s.history := rfl
@[simp] theorem setHandle_host (h : Handle) : (setHandle h s).host = s.host := rfl
@[simp] theorem setHandle_params (h : Handle) : (setHandle h s).params = s.params := rfl
@[simp] theorem setHandle_env (h : Handle) : (setHandle h s).env = s.env := rfl

/-! ### close -/

@[simp] theorem close_busPath : (close s).busPath = s.busPath := rfl
@[simp] theorem close_gpioAddr : (close s).gpioAddr = s.gpioAddr := rfl
@[simp] theorem close_gpioResetPol : (close s).gpioResetPol = s.gpioResetPol := rfl
@[simp] theorem close_rtcCtrl : (close s).rtcCtrl = s.rtcCtrl := rfl
@[simp] theorem close_century : (close s).century = s.century := rfl
@[simp] theorem close_handle : (close s).handle = .closed := rfl
@[simp] theorem close_dbuf : (close s).dbuf = s.dbuf := rfl
@[simp] theorem close_status : (close s).status = s.status := rfl
@[simp] theorem close_rval : (close s).rval = s.rval := rfl
@[simp] theorem close_rlen : (close s).rlen = s.rlen := rfl
@[simp] theorem close_cmd : (close s).cmd = s.cmd := rfl
@[simp] theorem close_busy : (close s).busy = s.busy := rfl
@[simp] theorem close_history : (close s).history = s.history ++ [.busClose] := rfl
@[simp] theorem close_host : (close s).host = s.host := rfl
@[simp] theorem close_params : (close s).params = s.params := rfl
@[simp] theorem close_env : (close s).env = s.env := rfl

/-! ### sleep -/

@[simp] theorem sleep_busPath : (sleep s).busPath = s.busPath := rfl
@[simp] theorem sleep_gpioAddr : (sleep s).gpioAddr = s.gpioAddr := rfl
@[simp] theorem sleep_gpioResetPol : (sleep s).gpioResetPol = s.gpioResetPol := rfl
@[simp] theorem sleep_rtcCtrl : (sleep s).rtcCtrl = s.rtcCtrl := rfl
@[simp] theorem sleep_century : (sleep s).century = s.century := rfl
@[simp] theorem sleep_handle : (sleep s).handle = s.handle := rfl
@[simp] theorem sleep_dbuf : (sleep s).dbuf = s.dbuf := rfl
@[simp] theorem sleep_status : (sleep s).status = s.status := rfl
@[simp] theorem sleep_rval : (sleep s).rval = s.rval := rfl
@[simp] theorem sleep_rlen : (sleep s).rlen = s.rlen := rfl
@[simp] theorem sleep_cmd : (sleep s).cmd = s.cmd := rfl
@[simp] theorem sleep_busy : (sleep s).busy = s.busy := rfl
@[simp] theorem sleep_history : (sleep s).history = s.history ++ [.sleep s.params.retryDelay] := rfl
@[simp] theorem sleep_host : (sleep s).host = s.host := rfl
@[simp] theorem sleep_params : (sleep s).params = s.params := rfl
@[simp] theorem sleep_env : (sleep s).env = s.env := rfl

/-! ### setDbuf -/

@[simp] theorem setDbuf_busPath (data : List Byte) : (setDbuf data s).busPath = s.busPath := rfl
@[simp] theorem setDbuf_gpioAddr (data : List Byte) : (setDbuf data s).gpioAddr = s.gpioAddr := rfl
@[simp] theorem setDbuf_gpioResetPol (data : List Byte) : (setDbuf data s).gpioResetPol = s.gpioResetPol := rfl
@[simp] theorem setDbuf_rtcCtrl (data : List Byte) : (setDbuf data s).rtcCtrl = s.rtcCtrl := rfl
@[simp] theorem setDbuf_century (data : List Byte) : (setDbuf data s).century = s.century := rfl
@[simp] theorem setDbuf_handle (data : List Byte) : (setDbuf data s).handle = s.handle := rfl
@[simp] theorem setDbuf_dbuf (data : List Byte) : (setDbuf data s).dbuf = mailboxStore 0 data s.dbuf := rfl
@[simp] theorem setDbuf_status (data : List Byte) : (setDbuf data s).status = s.status := rfl
@[simp] theorem setDbuf_rval (data : List Byte) : (setDbuf data s).rval = s.rval := rfl
@[simp] theorem setDbuf_rlen (data : List Byte) : (setDbuf data s).rlen = s.rlen := rfl
@[simp] theorem setDbuf_cmd (data : List Byte) : (setDbuf data s).cmd = s.cmd := rfl
@[simp] theorem setDbuf_busy (data : List Byte) : (setDbuf data s).busy = s.busy := rfl
@[simp] theorem setDbuf_history (data : List Byte) : (setDbuf data s).history = s.history := rfl
@[simp] theorem setDbuf_host (data : List Byte) : (setDbuf data s).host = s.host := rfl
@[simp] theorem setDbuf_params (data : List Byte) : (setDbuf data s).params = s.params := rfl
@[simp] theorem setDbuf_env (data : List Byte) : (setDbuf data s).env = s.env := rfl

/-! ### beginCommand -/

@[simp] theorem beginCommand_busPath : (beginCommand s).busPath = s.busPath := rfl
@[simp] theorem beginCommand_gpioAddr : (beginCommand s).gpioAddr = s.gpioAddr := rfl
@[simp] theorem beginCommand_gpioResetPol : (beginCommand s).gpioResetPol = s.gpioResetPol := rfl
@[simp] theorem beginCommand_rtcCtrl : (beginCommand s).rtcCtrl = s.rtcCtrl := rfl
@[simp] theorem beginCommand_century : (beginCommand s).century = s.century := rfl
@[simp] theorem beginCommand_handle : (beginCommand s).handle = s.handle := rfl
@[simp] theorem beginCommand_dbuf : (beginCommand s).dbuf = s.dbuf := rfl
@[simp] theorem beginCommand_status : (beginCommand s).status = s.status := rfl
@[simp] theorem beginCommand_rval : (beginCommand s).rval = 0x0000#16 := rfl
@[simp] theorem beginCommand_rlen : (beginCommand s).rlen = 0x00#8 := rfl
@[simp] theorem beginCommand_cmd : (beginCommand s).cmd = s.cmd := rfl
@[simp] theorem beginCommand_busy : (beginCommand s).busy = true := rfl
@[simp] theorem beginCommand_history : (beginCommand s).history = s.history := rfl
@[simp] theorem beginCommand_host : (beginCommand s).host = s.host := rfl
@[simp] theorem beginCommand_params : (beginCommand s).params = s.params := rfl
@[simp] theorem beginCommand_env : (beginCommand s).env = s.env := rfl

/-! ### setRval -/

@[simp] theorem setRval_busPath (v : Half) : (setRval v s).busPath = s.busPath := rfl
@[simp] theorem setRval_gpioAddr (v : Half) : (setRval v s).gpioAddr = s.gpioAddr := rfl
@[simp] theorem setRval_gpioResetPol (v : Half) : (setRval v s).gpioResetPol = s.gpioResetPol := rfl
@[simp] theorem setRval_rtcCtrl (v : Half) : (setRval v s).rtcCtrl = s.rtcCtrl := rfl
@[simp] theorem setRval_century (v : Half) : (setRval v s).century = s.century := rfl
@[simp] theorem setRval_handle (v : Half) : (setRval v s).handle = s.handle := rfl
@[simp] theorem setRval_dbuf (v : Half) : (setRval v s).dbuf = s.dbuf := rfl
@[simp] theorem setRval_status (v : Half) : (setRval v s).status = s.status := rfl
@[simp] theorem setRval_rval (v : Half) : (setRval v s).rval = v := rfl
@[simp] theorem setRval_rlen (v : Half) : (setRval v s).rlen = s.rlen := rfl
@[simp] theorem setRval_cmd (v : Half) : (setRval v s).cmd = s.cmd := rfl
@[simp] theorem setRval_busy (v : Half) : (setRval v s).busy = s.busy := rfl
@[simp] theorem setRval_history (v : Half) : (setRval v s).history = s.history := rfl
@[simp] theorem setRval_host (v : Half) : (setRval v s).host = s.host := rfl
@[simp] theorem setRval_params (v : Half) : (setRval v s).params = s.params := rfl
@[simp] theorem setRval_env (v : Half) : (setRval v s).env = s.env := rfl

/-! ### setRlen -/

@[simp] theorem setRlen_busPath (n : Nat) : (setRlen n s).busPath = s.busPath := rfl
@[simp] theorem setRlen_gpioAddr (n : Nat) : (setRlen n s).gpioAddr = s.gpioAddr := rfl
@[simp] theorem setRlen_gpioResetPol (n : Nat) : (setRlen n s).gpioResetPol = s.gpioResetPol := rfl
@[simp] theorem setRlen_rtcCtrl (n : Nat) : (setRlen n s).rtcCtrl = s.rtcCtrl := rfl
@[simp] theorem setRlen_century (n : Nat) : (setRlen n s).century = s.century := rfl
@[simp] theorem setRlen_handle (n : Nat) : (setRlen n s).handle = s.handle := rfl
@[simp] theorem setRlen_dbuf (n : Nat) : (setRlen n s).dbuf = s.dbuf := rfl
@[simp] theorem setRlen_status (n : Nat) : (setRlen n s).status = s.status := rfl
@[simp] theorem setRlen_rval (n : Nat) : (setRlen n s).rval = s.rval := rfl
@[simp] theorem setRlen_rlen (n : Nat) : (setRlen n s).rlen = BitVec.ofNat 8 n := rfl
@[simp] theorem setRlen_cmd (n : Nat) : (setRlen n s).cmd = s.cmd := rfl
@[simp] theorem setRlen_busy (n : Nat) : (setRlen n s).busy = s.busy := rfl
@[simp] theorem setRlen_history (n : Nat) : (setRlen n s).history = s.history := rfl
@[simp] theorem setRlen_host (n : Nat) : (setRlen n s).host = s.host := rfl
@[simp] theorem setRlen_params (n : Nat) : (setRlen n s).params = s.params := rfl
@[simp] theorem setRlen_env (n : Nat) : (setRlen n s).env = s.env := rfl

/-! ### finish -/

@[simp] theorem finish_busPath : (finish s).busPath = s.busPath := rfl
@[simp] theorem finish_gpioAddr : (finish s).gpioAddr = s.gpioAddr := rfl
@[simp] theorem finish_gpioResetPol : (finish s).gpioResetPol = s.gpioResetPol := rfl
@[simp] theorem finish_rtcCtrl : (finish s).rtcCtrl = s.rtcCtrl := rfl
@[simp] theorem finish_century : (finish s).century = s.century := rfl
@[simp] theorem finish_handle : (finish s).handle = s.handle := rfl
@[simp] theorem finish_dbuf : (finish s).dbuf = s.dbuf := rfl
@[simp] theorem finish_status : (finish s).status = statusOk := rfl
@[simp] theorem finish_rval : (finish s).rval = s.rval := rfl
@[simp] theorem finish_rlen : (finish s).rlen = s.rlen := rfl
@[simp] theorem finish_cmd : (finish s).cmd = s.cmd := rfl
@[simp] theorem finish_busy : (finish s).busy = false := rfl
@[simp] theorem finish_history : (finish s).history = s.history := rfl
@[simp] theorem finish_host : (finish s).host = s.host := rfl
@[simp] theorem finish_params : (finish s).params = s.params := rfl
@[simp] theorem finish_env : (finish s).env = s.env := rfl

/-! ### postFailure -/

@[simp] theorem postFailure_busPath (f : Failure) : (postFailure f s).busPath = s.busPath := rfl
@[simp] theorem postFailure_gpioAddr (f : Failure) : (postFailure f s).gpioAddr = s.gpioAddr := rfl
@[simp] theorem postFailure_gpioResetPol (f : Failure) : (postFailure f s).gpioResetPol = s.gpioResetPol := rfl
@[simp] theorem postFailure_rtcCtrl (f : Failure) : (postFailure f s).rtcCtrl = s.rtcCtrl := rfl
@[simp] theorem postFailure_century (f : Failure) : (postFailure f s).century = s.century := rfl
@[simp] theorem postFailure_handle (f : Failure) : (postFailure f s).handle = s.handle := rfl
@[simp] theorem postFailure_dbuf (f : Failure) : (postFailure f s).dbuf = s.dbuf := rfl
@[simp] theorem postFailure_status (f : Failure) : (postFailure f s).status = f.code := rfl
@[simp] theorem postFailure_rval (f : Failure) : (postFailure f s).rval = s.rval := rfl
@[simp] theorem postFailure_rlen (f : Failure) : (postFailure f s).rlen = f.rlenAfter s.rlen := rfl
@[simp] theorem postFailure_cmd (f : Failure) : (postFailure f s).cmd = s.cmd := rfl
@[simp] theorem postFailure_busy (f : Failure) : (postFailure f s).busy = false := rfl
@[simp] theorem postFailure_history (f : Failure) : (postFailure f s).history = s.history := rfl
@[simp] theorem postFailure_host (f : Failure) : (postFailure f s).host = s.host := rfl
@[simp] theorem postFailure_params (f : Failure) : (postFailure f s).params = s.params := rfl
@[simp] theorem postFailure_env (f : Failure) : (postFailure f s).env = s.env := rfl

/-! ### hostStore -/

@[simp] theorem hostStore_busPath (i : Fin 64) (v : Byte) : (hostStore i v s).busPath = s.busPath := rfl
@[simp] theorem hostStore_gpioAddr (i : Fin 64) (v : Byte) : (hostStore i v s).gpioAddr = s.gpioAddr := rfl
@[simp] theorem hostStore_gpioResetPol (i : Fin 64) (v : Byte) : (hostStore i v s).gpioResetPol = s.gpioResetPol := rfl
@[simp] theorem hostStore_rtcCtrl (i : Fin 64) (v : Byte) : (hostStore i v s).rtcCtrl = s.rtcCtrl := rfl
@[simp] theorem hostStore_century (i : Fin 64) (v : Byte) : (hostStore i v s).century = s.century := rfl
@[simp] theorem hostStore_handle (i : Fin 64) (v : Byte) : (hostStore i v s).handle = s.handle := rfl
@[simp] theorem hostStore_dbuf (i : Fin 64) (v : Byte) : (hostStore i v s).dbuf = s.dbuf.set i v := rfl
@[simp] theorem hostStore_status (i : Fin 64) (v : Byte) : (hostStore i v s).status = s.status := rfl
@[simp] theorem hostStore_rval (i : Fin 64) (v : Byte) : (hostStore i v s).rval = s.rval := rfl
@[simp] theorem hostStore_rlen (i : Fin 64) (v : Byte) : (hostStore i v s).rlen = s.rlen := rfl
@[simp] theorem hostStore_cmd (i : Fin 64) (v : Byte) : (hostStore i v s).cmd = s.cmd := rfl
@[simp] theorem hostStore_busy (i : Fin 64) (v : Byte) : (hostStore i v s).busy = s.busy := rfl
@[simp] theorem hostStore_history (i : Fin 64) (v : Byte) : (hostStore i v s).history = s.history := rfl
@[simp] theorem hostStore_host (i : Fin 64) (v : Byte) : (hostStore i v s).host = s.host := rfl
@[simp] theorem hostStore_params (i : Fin 64) (v : Byte) : (hostStore i v s).params = s.params := rfl
@[simp] theorem hostStore_env (i : Fin 64) (v : Byte) : (hostStore i v s).env = s.env := rfl

/-! ### acceptCommand -/

@[simp] theorem acceptCommand_busPath (w : Word) : (acceptCommand w s).busPath = s.busPath := rfl
@[simp] theorem acceptCommand_gpioAddr (w : Word) : (acceptCommand w s).gpioAddr = s.gpioAddr := rfl
@[simp] theorem acceptCommand_gpioResetPol (w : Word) : (acceptCommand w s).gpioResetPol = s.gpioResetPol := rfl
@[simp] theorem acceptCommand_rtcCtrl (w : Word) : (acceptCommand w s).rtcCtrl = s.rtcCtrl := rfl
@[simp] theorem acceptCommand_century (w : Word) : (acceptCommand w s).century = s.century := rfl
@[simp] theorem acceptCommand_handle (w : Word) : (acceptCommand w s).handle = s.handle := rfl
@[simp] theorem acceptCommand_dbuf (w : Word) : (acceptCommand w s).dbuf = s.dbuf := rfl
@[simp] theorem acceptCommand_status (w : Word) : (acceptCommand w s).status = s.status := rfl
@[simp] theorem acceptCommand_rval (w : Word) : (acceptCommand w s).rval = s.rval := rfl
@[simp] theorem acceptCommand_rlen (w : Word) : (acceptCommand w s).rlen = s.rlen := rfl
@[simp] theorem acceptCommand_cmd (w : Word) : (acceptCommand w s).cmd = w := rfl
@[simp] theorem acceptCommand_busy (w : Word) : (acceptCommand w s).busy = true := rfl
@[simp] theorem acceptCommand_history (w : Word) : (acceptCommand w s).history = s.history := rfl
@[simp] theorem acceptCommand_host (w : Word) : (acceptCommand w s).host = s.host := rfl
@[simp] theorem acceptCommand_params (w : Word) : (acceptCommand w s).params = s.params := rfl
@[simp] theorem acceptCommand_env (w : Word) : (acceptCommand w s).env = s.env := rfl

/-! ### takeMove -/

@[simp] theorem takeMove_busPath (rest : List HostMove) : (takeMove rest s).busPath = s.busPath := rfl
@[simp] theorem takeMove_gpioAddr (rest : List HostMove) : (takeMove rest s).gpioAddr = s.gpioAddr := rfl
@[simp] theorem takeMove_gpioResetPol (rest : List HostMove) : (takeMove rest s).gpioResetPol = s.gpioResetPol := rfl
@[simp] theorem takeMove_rtcCtrl (rest : List HostMove) : (takeMove rest s).rtcCtrl = s.rtcCtrl := rfl
@[simp] theorem takeMove_century (rest : List HostMove) : (takeMove rest s).century = s.century := rfl
@[simp] theorem takeMove_handle (rest : List HostMove) : (takeMove rest s).handle = s.handle := rfl
@[simp] theorem takeMove_dbuf (rest : List HostMove) : (takeMove rest s).dbuf = s.dbuf := rfl
@[simp] theorem takeMove_status (rest : List HostMove) : (takeMove rest s).status = s.status := rfl
@[simp] theorem takeMove_rval (rest : List HostMove) : (takeMove rest s).rval = s.rval := rfl
@[simp] theorem takeMove_rlen (rest : List HostMove) : (takeMove rest s).rlen = s.rlen := rfl
@[simp] theorem takeMove_cmd (rest : List HostMove) : (takeMove rest s).cmd = s.cmd := rfl
@[simp] theorem takeMove_busy (rest : List HostMove) : (takeMove rest s).busy = s.busy := rfl
@[simp] theorem takeMove_history (rest : List HostMove) : (takeMove rest s).history = s.history := rfl
@[simp] theorem takeMove_host (rest : List HostMove) : (takeMove rest s).host = rest := rfl
@[simp] theorem takeMove_params (rest : List HostMove) : (takeMove rest s).params = s.params := rfl
@[simp] theorem takeMove_env (rest : List HostMove) : (takeMove rest s).env = s.env := rfl

/-! ### latchInit -/

@[simp] theorem latchInit_busPath (a : SlaveAddr) (b : Bool) : (latchInit a b s).busPath = s.busPath := rfl
@[simp] theorem latchInit_gpioAddr (a : SlaveAddr) (b : Bool) : (latchInit a b s).gpioAddr = (if a = 0x00#7 then s.gpioAddr else a) := rfl
@[simp] theorem latchInit_gpioResetPol (a : SlaveAddr) (b : Bool) : (latchInit a b s).gpioResetPol = b := rfl
@[simp] theorem latchInit_rtcCtrl (a : SlaveAddr) (b : Bool) : (latchInit a b s).rtcCtrl = s.rtcCtrl := rfl
@[simp] theorem latchInit_century (a : SlaveAddr) (b : Bool) : (latchInit a b s).century = s.century := rfl
@[simp] theorem latchInit_handle (a : SlaveAddr) (b : Bool) : (latchInit a b s).handle = s.handle := rfl
@[simp] theorem latchInit_dbuf (a : SlaveAddr) (b : Bool) : (latchInit a b s).dbuf = s.dbuf := rfl
@[simp] theorem latchInit_status (a : SlaveAddr) (b : Bool) : (latchInit a b s).status = s.status := rfl
@[simp] theorem latchInit_rval (a : SlaveAddr) (b : Bool) : (latchInit a b s).rval = s.rval := rfl
@[simp] theorem latchInit_rlen (a : SlaveAddr) (b : Bool) : (latchInit a b s).rlen = s.rlen := rfl
@[simp] theorem latchInit_cmd (a : SlaveAddr) (b : Bool) : (latchInit a b s).cmd = s.cmd := rfl
@[simp] theorem latchInit_busy (a : SlaveAddr) (b : Bool) : (latchInit a b s).busy = s.busy := rfl
@[simp] theorem latchInit_history (a : SlaveAddr) (b : Bool) : (latchInit a b s).history = s.history := rfl
@[simp] theorem latchInit_host (a : SlaveAddr) (b : Bool) : (latchInit a b s).host = s.host := rfl
@[simp] theorem latchInit_params (a : SlaveAddr) (b : Bool) : (latchInit a b s).params = s.params := rfl
@[simp] theorem latchInit_env (a : SlaveAddr) (b : Bool) : (latchInit a b s).env = s.env := rfl

end Sys2Proof.Machine
end

