-- ==== Sys2Proof/Laws/Bus.lean ====
section
/-! SUPPORT. What each bus call and each piece of Transport can do, said once: how the history grows, what becomes of
HANDLE and of the environment, and that no other field changes. -/

namespace Sys2Proof.Machine

open Sys2Proof.Safety

/-! ## The environment -/

@[simp] theorem Env.advance_answer (e : Env) (j : Nat) : e.advance.answer j = e.answer (j + 1) := by
  unfold Env.answer Env.advance
  simp [Nat.add_assoc, Nat.add_comm 1 j]

@[simp] theorem Env.advance_oracle (e : Env) : e.advance.oracle = e.oracle := rfl
@[simp] theorem Env.advance_board (e : Env) : e.advance.board = e.board := rfl
@[simp] theorem Env.advance_devRegs (e : Env) : e.advance.devRegs = e.devRegs := rfl
@[simp] theorem Env.advance_rtcPtr (e : Env) : e.advance.rtcPtr = e.rtcPtr := rfl
@[simp] theorem Env.advance_gpioPtr (e : Env) : e.advance.gpioPtr = e.gpioPtr := rfl
@[simp] theorem Env.advance_pointer (e : Env) (d : Device) : e.advance.pointer d = e.pointer d := by cases d <;> rfl

@[simp] theorem Env.setPointer_oracle (e : Env) (v : Byte) (d : Device) : (e.setPointer v d).oracle = e.oracle := by
  cases d <;> rfl
@[simp] theorem Env.setPointer_board (e : Env) (v : Byte) (d : Device) : (e.setPointer v d).board = e.board := by
  cases d <;> rfl
@[simp] theorem Env.setPointer_devRegs (e : Env) (v : Byte) (d : Device) : (e.setPointer v d).devRegs = e.devRegs := by
  cases d <;> rfl
@[simp] theorem Env.setPointer_script (e : Env) (v : Byte) (d : Device) : (e.setPointer v d).script = e.script := by
  cases d <;> rfl
@[simp] theorem Env.setPointer_drawn (e : Env) (v : Byte) (d : Device) : (e.setPointer v d).drawn = e.drawn := by
  cases d <;> rfl
@[simp] theorem Env.setPointer_latchA (e : Env) (v : Byte) (d : Device) : (e.setPointer v d).latchA = e.latchA := by
  cases d <;> rfl
@[simp] theorem Env.setPointer_latchB (e : Env) (v : Byte) (d : Device) : (e.setPointer v d).latchB = e.latchB := by
  cases d <;> rfl
@[simp] theorem Env.setPointer_answer (e : Env) (v : Byte) (d : Device) (j : Nat) :
    (e.setPointer v d).answer j = e.answer j := by cases d <;> rfl
@[simp] theorem Env.setPointer_pointer (e : Env) (v : Byte) (d : Device) : (e.setPointer v d).pointer d = v := by
  cases d <;> rfl

/-- `n` answers were used and nothing else of the environment has changed but the latches, each only when one of those
answers latched a condition. -/
structure Env.Asked (e e' : Env) (n : Nat) : Prop where
  answer  : ∀ j, e'.answer j = e.answer (j + n)
  oracle  : e'.oracle = e.oracle
  board   : e'.board = e.board
  devRegs : e'.devRegs = e.devRegs
  rtcPtr  : e'.rtcPtr = e.rtcPtr
  gpioPtr : e'.gpioPtr = e.gpioPtr
  latchA  : (∀ j < n, (e.answer j).irqA = false) → e'.latchA = e.latchA
  latchB  : (∀ j < n, (e.answer j).irqB = false) → e'.latchB = e.latchB

theorem Env.Asked.refl (e : Env) : e.Asked e 0 :=
  ⟨fun _ => rfl, rfl, rfl, rfl, rfl, rfl, fun _ => rfl, fun _ => rfl⟩

theorem Env.Asked.advance (e : Env) : e.Asked e.advance 1 :=
  ⟨fun j => e.advance_answer j, rfl, rfl, rfl, rfl, rfl, fun h => by simp [Env.advance, h 0 (by omega)],
    fun h => by simp [Env.advance, h 0 (by omega)]⟩

theorem Env.Asked.trans {e e' e'' : Env} {m n : Nat} (h : e.Asked e' m) (h' : e'.Asked e'' n) : e.Asked e'' (m + n) :=
  ⟨fun j => by rw [h'.answer, h.answer]; congr 1; omega, h'.oracle.trans h.oracle, h'.board.trans h.board,
    h'.devRegs.trans h.devRegs, h'.rtcPtr.trans h.rtcPtr, h'.gpioPtr.trans h.gpioPtr,
    fun k => (h'.latchA fun j hj => by rw [h.answer]; exact k _ (by omega)).trans (h.latchA fun j hj => k j (by omega)),
    fun k => (h'.latchB fun j hj => by rw [h.answer]; exact k _ (by omega)).trans (h.latchB fun j hj => k j (by omega))⟩

/-! ## Device effects keep oracle, board, answers and the canonical form -/

@[simp] theorem deviceTake_oracle (e : Env) (a : SlaveAddr) (bs : List Byte) (p : Byte) :
    (deviceTake e a bs p).oracle = e.oracle := by
  unfold deviceTake; split <;> simp
@[simp] theorem deviceTake_board (e : Env) (a : SlaveAddr) (bs : List Byte) (p : Byte) :
    (deviceTake e a bs p).board = e.board := by
  unfold deviceTake; split <;> simp
@[simp] theorem deviceTake_answer (e : Env) (a : SlaveAddr) (bs : List Byte) (p : Byte) (j : Nat) :
    (deviceTake e a bs p).answer j = e.answer j := by
  unfold deviceTake; split <;> simp [Env.answer]

theorem deviceStore_wf {e : Env} (h : e.devRegs.wf) (a : SlaveAddr) (d : Device) (r : Nat) (bs : List Byte) :
    (deviceStore e a d r bs).wf := by
  unfold deviceStore
  split
  · exact storeBytes_wf _ _ _ h
  · split
    · exact h
    · cases d <;> dsimp only <;> split
      · exact storeBytes_wf _ _ _ h
      · exact forgetSlave_wf _ h
      · exact forgetSlave_wf _ h
      · split
        · exact storeBytes_wf _ _ _ h
        · exact h

@[simp] theorem deviceTake_latchA (e : Env) (a : SlaveAddr) (bs : List Byte) (p : Byte) :
    (deviceTake e a bs p).latchA = e.latchA := by
  unfold deviceTake; split <;> simp
@[simp] theorem deviceTake_latchB (e : Env) (a : SlaveAddr) (bs : List Byte) (p : Byte) :
    (deviceTake e a bs p).latchB = e.latchB := by
  unfold deviceTake; split <;> simp

theorem deviceTake_wf {e : Env} (h : e.devRegs.wf) (a : SlaveAddr) (bs : List Byte) (p : Byte) :
    (deviceTake e a bs p).devRegs.wf := by
  unfold deviceTake
  split
  · simpa using deviceStore_wf h _ _ _ _
  · exact h

/-! ## Latches: nothing else of the environment follows them -/

@[simp] theorem Env.latchesAfterRead_oracle (e : Env) (r : Byte) (n k : Nat) (d : Draw) :
    (e.latchesAfterRead r n k d).oracle = e.oracle := rfl
@[simp] theorem Env.latchesAfterRead_board (e : Env) (r : Byte) (n k : Nat) (d : Draw) :
    (e.latchesAfterRead r n k d).board = e.board := rfl
@[simp] theorem Env.latchesAfterRead_devRegs (e : Env) (r : Byte) (n k : Nat) (d : Draw) :
    (e.latchesAfterRead r n k d).devRegs = e.devRegs := rfl
@[simp] theorem Env.latchesAfterRead_script (e : Env) (r : Byte) (n k : Nat) (d : Draw) :
    (e.latchesAfterRead r n k d).script = e.script := rfl
@[simp] theorem Env.latchesAfterRead_drawn (e : Env) (r : Byte) (n k : Nat) (d : Draw) :
    (e.latchesAfterRead r n k d).drawn = e.drawn := rfl
@[simp] theorem Env.latchesAfterRead_answer (e : Env) (r : Byte) (n k : Nat) (d : Draw) (j : Nat) :
    (e.latchesAfterRead r n k d).answer j = e.answer j := rfl

@[simp] theorem deviceGive_oracle (e : Env) (a : SlaveAddr) (d : Device) (n : Nat) (bs : List Byte) (w : Draw) :
    (deviceGive e a d n bs w).oracle = e.oracle := by
  cases d <;> simp only [deviceGive] <;> split <;> simp
@[simp] theorem deviceGive_board (e : Env) (a : SlaveAddr) (d : Device) (n : Nat) (bs : List Byte) (w : Draw) :
    (deviceGive e a d n bs w).board = e.board := by
  cases d <;> simp only [deviceGive] <;> split <;> simp
@[simp] theorem deviceGive_answer (e : Env) (a : SlaveAddr) (d : Device) (n : Nat) (bs : List Byte) (w : Draw) (j : Nat) :
    (deviceGive e a d n bs w).answer j = e.answer j := by
  cases d <;> simp only [deviceGive] <;> split <;> simp [Env.answer]
/-- A read stores what it returned under the register-block oracle, and changes no device register otherwise. -/
theorem deviceGive_devRegs (e : Env) (a : SlaveAddr) (d : Device) (n : Nat) (bs : List Byte) (w : Draw) :
    (deviceGive e a d n bs w).devRegs =
      if e.oracle = .registerBlock then storeBytes a (e.pointer d).toNat bs e.devRegs else e.devRegs := by
  cases d <;> simp only [deviceGive] <;> split <;> simp

/-- What a read does to the latches of the expander (R63). -/
theorem deviceGive_latches (e : Env) (a : SlaveAddr) (n : Nat) (bs : List Byte) (w : Draw) :
    (deviceGive e a .gpio n bs w).latchA = latchAfterRead 0x10#8 (e.pointer .gpio) n bs.length w.irqA e.latchA ∧
      (deviceGive e a .gpio n bs w).latchB = latchAfterRead 0x11#8 (e.pointer .gpio) n bs.length w.irqB e.latchB := by
  simp only [deviceGive, Env.latchesAfterRead]
  split <;> simp <;> exact ⟨rfl, rfl⟩

theorem deviceGive_wf {e : Env} (h : e.devRegs.wf) (a : SlaveAddr) (d : Device) (n : Nat) (bs : List Byte) (w : Draw) :
    (deviceGive e a d n bs w).devRegs.wf := by
  rw [deviceGive_devRegs]
  split
  · exact storeBytes_wf _ _ _ h
  · exact h

@[simp] theorem readData_length (e : Env) (a : SlaveAddr) (d : Device) (n : Nat) (bs : List Byte) :
    ∀ r, (readData e a d n r bs).length = bs.length := by
  induction bs with
  | nil => intro _; rfl
  | cons b bs ih => intro r; simp [readData, ih]

/-- Under the unconstrained oracle the bytes are the environment's own (R62). -/
theorem readData_unconstrained {e : Env} (h : e.oracle = .unconstrained) (a : SlaveAddr) (d : Device) (n : Nat)
    (bs : List Byte) : ∀ r, readData e a d n r bs = bs := by
  induction bs with
  | nil => intro _; rfl
  | cons b bs ih => intro r; simp [readData, ih, fixedByte, h]

/-! ## Bus calls -/

/-- Two states that differ in the history (grown by `evs`), HANDLE and the environment only. -/
def Moved (s t : State) (evs : List Event) : Prop :=
  t = { s with history := s.history ++ evs, handle := t.handle, env := t.env }

namespace Moved

theorem refl (s : State) : Moved s s [] := by simp [Moved]

theorem trans {s t u : State} {e1 e2 : List Event} (h : Moved s t e1) (h' : Moved t u e2) : Moved s u (e1 ++ e2) := by
  unfold Moved at *
  rw [h'] ; rw [h] ; simp

variable {s t : State} {evs : List Event} (h : Moved s t evs)
include h

theorem history : t.history = s.history ++ evs := by rw [h]
theorem busPath : t.busPath = s.busPath := by rw [h]
theorem gpioAddr : t.gpioAddr = s.gpioAddr := by rw [h]
theorem gpioResetPol : t.gpioResetPol = s.gpioResetPol := by rw [h]
theorem rtcCtrl : t.rtcCtrl = s.rtcCtrl := by rw [h]
theorem century : t.century = s.century := by rw [h]
theorem dbuf : t.dbuf = s.dbuf := by rw [h]
theorem status : t.status = s.status := by rw [h]
theorem rval : t.rval = s.rval := by rw [h]
theorem rlen : t.rlen = s.rlen := by rw [h]
theorem cmd : t.cmd = s.cmd := by rw [h]
theorem busy : t.busy = s.busy := by rw [h]
theorem host : t.host = s.host := by rw [h]
theorem params : t.params = s.params := by rw [h]

end Moved

/-- `BusOpen` answers as the environment does when there is a path, and fails when there is none (R51). -/
theorem busOpen_moved (s : State) :
    Moved s (busOpen s).2 [.busOpen s.busPath (busOpen s).1] ∧ (busOpen s).2.handle = s.handle := by
  cases h : s.busPath <;> simp [busOpen, h, Moved, record, setEnv]

theorem busOpen_noPath {s : State} (h : s.busPath = .noPath) : (busOpen s).1 = false ∧ (busOpen s).2.env = s.env := by
  simp [busOpen, h, record]

theorem busOpen_path {s : State} {p : Byte} (h : s.busPath = .path p) :
    (busOpen s).1 = (s.env.answer 0).ok ∧ (busOpen s).2.env = s.env.advance := by
  simp [busOpen, h, record, setEnv]

theorem busBind_moved (a : SlaveAddr) (s : State) :
    Moved s (busBind a s).2 [.busBind a (busBind a s).1] ∧ (busBind a s).2.handle = s.handle ∧
      (busBind a s).1 = (s.env.answer 0).ok ∧ (busBind a s).2.env = s.env.advance := by
  simp [busBind, Moved, record, setEnv]

/-- `BusWrite` reports at most the buffer, and does to a bound slave what `deviceTake` says (R53, R59, R60). -/
theorem busWrite_moved (buf : List Byte) (s : State) :
    Moved s (busWrite buf s).2 [.busWrite buf (busWrite buf s).1] ∧ (busWrite buf s).2.handle = s.handle ∧
      (busWrite buf s).1 = min (s.env.answer 0).count buf.length := by
  simp [busWrite, Moved, record, setEnv]

theorem busWrite_env {a : SlaveAddr} {s : State} (h : s.handle = .bound a) (buf : List Byte) :
    (busWrite buf s).2.env =
      deviceTake s.env.advance a (buf.take (bytesTaken s.params (s.env.answer 0) (busWrite buf s).1 buf.length))
        (s.env.answer 0).pointer := by
  simp [busWrite, h, record, setEnv]

/-- `BusRead` returns at most what was asked for (R54). -/
theorem busRead_moved (n : Nat) (s : State) :
    Moved s (busRead n s).2 [.busRead n (busRead n s).1.length (busRead n s).1] ∧ (busRead n s).2.handle = s.handle ∧
      (busRead n s).1.length = min n (s.env.answer 0).data.length := by
  unfold busRead
  split
  · simp [Moved, record, setEnv]
  · simp [Moved, record, setEnv]
  · dsimp only
    split
    · simp [Moved, record, setEnv]
    · simp [Moved, record, setEnv]

theorem close_moved (s : State) : Moved s (close s) [.busClose] := by simp [Moved, close, record, setHandle]

/-- A read that was not made changes latches at most. -/
theorem readNotMade_moved (reg : Byte) (n : Nat) (d : Draw) (s : State) :
    Moved s (readNotMade reg n d s) [] ∧ (readNotMade reg n d s).env.oracle = s.env.oracle ∧
      (readNotMade reg n d s).env.board = s.env.board ∧ (readNotMade reg n d s).env.devRegs = s.env.devRegs := by
  unfold readNotMade
  split
  · exact ⟨.refl s, rfl, rfl, rfl⟩
  · exact ⟨.refl s, rfl, rfl, rfl⟩
  · split
    · exact ⟨.refl s, rfl, rfl, rfl⟩
    · exact ⟨.refl s, rfl, rfl, rfl⟩
    · simp [Moved, setEnv]

theorem sleep_moved (s : State) : Moved s (sleep s) [.sleep s.params.retryDelay] := by simp [Moved, sleep, record]

theorem setHandle_moved (k : Handle) (s : State) : Moved s (setHandle k s) [] := by simp [Moved, setHandle]

/-! ## The open loop (R131, R132) -/

/-- Everything the open loop can do: it fails `r` times, sleeping after each failure, and then its last attempt gives
its answer; a failure in the end means every retry was used. -/
theorem openAttempts_moved (n : Nat) : ∀ s : State, ∃ r ≤ n, ∃ m,
    Moved s (openAttempts n s).2 (openEvents s.busPath s.params.retryDelay r (openAttempts n s).1) ∧
    (openAttempts n s).2.handle = s.handle ∧ s.env.Asked (openAttempts n s).2.env m ∧
    ((openAttempts n s).1 = false → r = n) := by
  have ask (s : State) : ∃ m, s.env.Asked (busOpen s).2.env m := by
    cases h : s.busPath with
    | noPath => exact ⟨0, by rw [(busOpen_noPath h).2]; exact .refl _⟩
    | path p => exact ⟨1, by rw [(busOpen_path h).2]; exact .advance _⟩
  induction n with
  | zero =>
    intro s
    obtain ⟨hm, hh⟩ := busOpen_moved s
    obtain ⟨m, ha⟩ := ask s
    exact ⟨0, le_rfl, m, hm, hh, ha, fun _ => rfl⟩
  | succ n ih =>
    intro s
    obtain ⟨hm, hh⟩ := busOpen_moved s
    obtain ⟨m, ha⟩ := ask s
    rcases hb : busOpen s with ⟨b, s'⟩
    rw [hb] at hm hh ha
    dsimp only at hm hh ha
    cases b with
    | true =>
      refine ⟨0, Nat.zero_le _, m, ?_⟩
      simp only [openAttempts, hb]
      exact ⟨hm, hh, ha, by simp⟩
    | false =>
      obtain ⟨r, hr, m', hm', hh', ha', hf'⟩ := ih (sleep s')
      refine ⟨r + 1, by omega, m + m', ?_⟩
      simp only [openAttempts, hb]
      refine ⟨?_, ?_, ha.trans ha', fun h => by rw [hf' h]⟩
      · have := (hm.trans (sleep_moved s')).trans hm'
        simpa [openEvents, hm.busPath, hm.params] using this
      · simpa [hh] using hh'

/-- With a path and answers that refuse `r` opens and grant the next, the loop opens the node after `r` failures. -/
theorem openAttempts_granted {p : Byte} (r : Nat) : ∀ (n : Nat) (s : State), s.busPath = .path p → r ≤ n →
    (∀ j < r, (s.env.answer j).ok = false) → (s.env.answer r).ok = true →
    (openAttempts n s).1 = true ∧ s.env.Asked (openAttempts n s).2.env (r + 1) ∧
      Moved s (openAttempts n s).2 (openEvents s.busPath s.params.retryDelay r true) ∧
      (openAttempts n s).2.handle = s.handle := by
  induction r with
  | zero =>
    intro n s hp _ _ hok
    obtain ⟨hm, hh⟩ := busOpen_moved s
    obtain ⟨hb, he⟩ := busOpen_path hp
    rw [hok] at hb
    have hx : openAttempts n s = busOpen s := by
      cases n with
      | zero => rfl
      | succ n =>
        unfold openAttempts
        split
        · rename_i h; exact h.symm
        · rename_i h; rw [h] at hb; cases hb
    rw [hx]
    exact ⟨hb, by rw [he]; exact .advance _, by rw [hb] at hm; exact hm, hh⟩
  | succ r ih =>
    intro n s hp hn hno hok
    obtain ⟨n, rfl⟩ : ∃ k, n = k + 1 := ⟨n - 1, by omega⟩
    obtain ⟨hm, hh⟩ := busOpen_moved s
    obtain ⟨hb, he⟩ := busOpen_path hp
    rw [hno 0 (by omega)] at hb
    rcases hx : busOpen s with ⟨b, s'⟩
    rw [hx] at hm hh hb he
    dsimp only at hm hh hb he
    obtain rfl : b = false := hb
    simp only [openAttempts, hx]
    have he' : (sleep s').env = s.env.advance := he
    obtain ⟨h1, h2, h3, h4⟩ := ih n (sleep s') (by simpa [hm.busPath] using hp) (by omega)
      (fun j hj => by rw [he', Env.advance_answer]; exact hno (j + 1) (by omega))
      (by rw [he', Env.advance_answer]; exact hok)
    refine ⟨h1, ?_, ?_, by simpa [hh] using h4⟩
    · have := (Env.Asked.advance s.env).trans (he' ▸ h2)
      rwa [Nat.add_comm 1] at this
    · have := (hm.trans (sleep_moved s')).trans h3
      simpa [openEvents, hm.busPath, hm.params] using this

/-- With no path, or answers that refuse every attempt, the loop fails after all retries. -/
theorem openAttempts_refused (n : Nat) : ∀ s : State,
    (s.busPath = .noPath ∨ ∀ j ≤ n, (s.env.answer j).ok = false) → (openAttempts n s).1 = false := by
  induction n with
  | zero =>
    intro s h
    cases hp : s.busPath with
    | noPath => exact (busOpen_noPath hp).1
    | path p =>
      rw [show openAttempts 0 s = busOpen s from rfl, (busOpen_path hp).1]
      rcases h with h | h
      · simp [hp] at h
      · exact h 0 le_rfl
  | succ n ih =>
    intro s h
    have hm := (busOpen_moved s).1
    have hb : (busOpen s).1 = false := by
      cases hp : s.busPath with
      | noPath => exact (busOpen_noPath hp).1
      | path p =>
        rw [(busOpen_path hp).1]
        rcases h with h | h
        · simp [hp] at h
        · exact h 0 (by omega)
    rcases hx : busOpen s with ⟨b, s'⟩
    rw [hx] at hm hb
    dsimp only at hm hb
    obtain rfl : b = false := hb
    simp only [openAttempts, hx]
    refine ih _ ?_
    cases hp : s.busPath with
    | noPath => exact .inl (by simpa [hm.busPath] using hp)
    | path p =>
      refine .inr fun j hj => ?_
      have he : (sleep s').env = s.env.advance := by
        have := (busOpen_path hp).2; rw [hx] at this; exact this
      rw [he, Env.advance_answer]
      rcases h with h | h
      · simp [hp] at h
      · exact h (j + 1) (by omega)

end Sys2Proof.Machine
end

