-- ==== Sys2Proof/Laws/Transport.lean ====
section
/-! SUPPORT. Everything a read or a write transaction can do, said once (41_transport.md R131 to R137): the result, the
events, and what becomes of the device registers. Provers cite `memRead_cases` and `memWrite_cases`, and
`memRead_granted` and `memWrite_granted` where the answers are known. -/

namespace Sys2Proof.Machine

open Sys2Proof.Safety

/-- A transaction from `s` that left `t` with these events: no handle remains and the same devices are on the bus. -/
structure Transacted (s t : State) (evs : List Event) : Prop where
  moved  : Moved s t evs
  handle : t.handle = .closed
  oracle : t.env.oracle = s.env.oracle
  board  : t.env.board = s.env.board

/-! ## Opening -/

/-- Everything `openTransaction` can do (R131): all opens fail; the bind fails and the node is closed; or the slave is
bound. Device registers do not change. -/
theorem openTransaction_cases {slave : SlaveAddr} {s : State} (hs : s.handle = .closed) :
    (∃ t, openTransaction slave s = .err .busUnavailable t ∧
      Transacted s t (openEvents s.busPath s.params.retryDelay s.params.maxRetries false) ∧
      t.env.devRegs = s.env.devRegs) ∨
    (∃ r ≤ s.params.maxRetries, ∃ t, openTransaction slave s = .err .busUnavailable t ∧
      Transacted s t (openEvents s.busPath s.params.retryDelay r true ++ [.busBind slave false, .busClose]) ∧
      t.env.devRegs = s.env.devRegs) ∨
    (∃ r ≤ s.params.maxRetries, ∃ t, openTransaction slave s = .ok () t ∧
      Moved s t (openEvents s.busPath s.params.retryDelay r true ++ [.busBind slave true]) ∧
      t.handle = .bound slave ∧ t.env.oracle = s.env.oracle ∧ t.env.board = s.env.board ∧
      t.env.devRegs = s.env.devRegs) := by
  obtain ⟨r, hr, m, hm, hh, ha, hf⟩ := openAttempts_moved s.params.maxRetries s
  rcases hx : openAttempts s.params.maxRetries s with ⟨b, s1⟩
  rw [hx] at hm hh ha hf
  dsimp only at hm hh ha hf
  cases b with
  | false =>
    obtain rfl := hf rfl
    exact .inl ⟨s1, by simp [openTransaction, hx], ⟨hm, hh.trans hs, ha.oracle, ha.board⟩, ha.devRegs⟩
  | true =>
    obtain ⟨bm, bh, ba, be⟩ := busBind_moved slave (setHandle .opened s1)
    rcases hy : busBind slave (setHandle .opened s1) with ⟨b, s2⟩
    rw [hy] at bm bh ba be
    dsimp only at bm bh ba be
    have hev : Moved s s2 (openEvents s.busPath s.params.retryDelay r true ++ [.busBind slave b]) := by
      simpa using (hm.trans (setHandle_moved .opened s1)).trans bm
    cases b with
    | false =>
      refine .inr (.inl ⟨r, hr, close s2, by simp [openTransaction, hx, hy], ⟨?_, rfl, ?_, ?_⟩, ?_⟩)
      · simpa using hev.trans (close_moved s2)
      · simp [be, ha.oracle]
      · simp [be, ha.board]
      · simp [be, ha.devRegs]
    | true =>
      refine .inr (.inr ⟨r, hr, setHandle (.bound slave) s2, by simp [openTransaction, hx, hy], ?_, rfl, ?_, ?_, ?_⟩)
      · simpa using hev.trans (setHandle_moved (.bound slave) s2)
      · simp [be, ha.oracle]
      · simp [be, ha.board]
      · simp [be, ha.devRegs]

/-! ## Device registers after an address byte alone -/

theorem deviceStore_nil (e : Env) (a : SlaveAddr) (d : Device) (r : Nat) : deviceStore e a d r [] = e.devRegs := by
  unfold deviceStore; split <;> simp [storeBytes]

theorem deviceTake_address_devRegs (e : Env) (a : SlaveAddr) (reg : Byte) (k : Nat) (p : Byte) :
    (deviceTake e a ([reg].take k) p).devRegs = e.devRegs := by
  cases k with
  | zero => unfold deviceTake; split <;> simp_all
  | succ k => unfold deviceTake; split <;> simp_all [deviceStore_nil]

/-- A whole address byte sets the pointer to it (R59). -/
theorem deviceTake_address_pointer {e : Env} {a : SlaveAddr} {dev : Device} (h : deviceAt e.board a = some dev)
    (reg p : Byte) : (deviceTake e a [reg] p).pointer dev = reg := by
  simp [deviceTake, h, pointerAfter]

/-! ## Read transactions -/

/-- What a read returns depends on the oracle and on the known registers only. -/
theorem readData_congr {e e' : Env} (ho : e'.oracle = e.oracle) (hd : e'.devRegs = e.devRegs) (a : SlaveAddr)
    (d : Device) (n : Nat) (bs : List Byte) : ∀ r, readData e' a d n r bs = readData e a d n r bs := by
  induction bs with
  | nil => intro _; rfl
  | cons b bs ih => intro r; simp [readData, ih, fixedByte, ho, hd]

/-- Device registers after a read of `data` from `reg` (R62): under the register-block oracle the array holds them. -/
def regsAfterRead (e : Env) (slave : SlaveAddr) (reg : Byte) (data : List Byte) : Memory :=
  if e.oracle = .registerBlock ∧ (deviceAt e.board slave).isSome then storeBytes slave reg.toNat data e.devRegs
  else e.devRegs

/-- Everything a read transaction can do (R131, R133, R136). -/
theorem memRead_cases {slave : SlaveAddr} {reg : Byte} {n : Nat} {s : State} (hs : s.handle = .closed) :
    (∃ t, memRead slave reg n s = .err .busUnavailable t ∧
      Transacted s t (openEvents s.busPath s.params.retryDelay s.params.maxRetries false) ∧
      t.env.devRegs = s.env.devRegs) ∨
    (∃ r ≤ s.params.maxRetries, ∃ t, memRead slave reg n s = .err .busUnavailable t ∧
      Transacted s t (openEvents s.busPath s.params.retryDelay r true ++ [.busBind slave false, .busClose]) ∧
      t.env.devRegs = s.env.devRegs) ∨
    (∃ r ≤ s.params.maxRetries, ∃ t, memRead slave reg n s = .err (.shortTransfer 0 []) t ∧
      Transacted s t (openEvents s.busPath s.params.retryDelay r true ++ boundEvents slave [.busWrite [reg] 0]) ∧
      t.env.devRegs = s.env.devRegs) ∨
    (∃ r ≤ s.params.maxRetries, ∃ t, ∃ data : List Byte, data.length < n ∧
      memRead slave reg n s = .err (.shortTransfer data.length data) t ∧
      Transacted s t (readEvents s r slave reg n data) ∧
      t.env.devRegs = regsAfterRead s.env slave reg data ∧ ∃ raw, data = readReturned s.env slave reg n raw) ∨
    (∃ r ≤ s.params.maxRetries, ∃ t, ∃ data : List Byte, data.length = n ∧
      memRead slave reg n s = .ok data t ∧
      Transacted s t (readEvents s r slave reg n data) ∧
      t.env.devRegs = regsAfterRead s.env slave reg data ∧ ∃ raw, data = readReturned s.env slave reg n raw) := by
  rcases openTransaction_cases (slave := slave) hs with ⟨t, h, ht, hd⟩ | ⟨r, hr, t, h, ht, hd⟩ |
      ⟨r, hr, s1, h, hm, hh, ho, hb, hd⟩
  · exact .inl ⟨t, by simp [memRead, h, Res.andThen], ht, hd⟩
  · exact .inr (.inl ⟨r, hr, t, by simp [memRead, h, Res.andThen], ht, hd⟩)
  · refine .inr (.inr ?_)
    have hmr : memRead slave reg n s = (readBytes reg n s1).mapState close := by simp [memRead, h, Res.andThen]
    obtain ⟨wm, wh, wk⟩ := busWrite_moved [reg] s1
    have we := busWrite_env hh [reg]
    rcases hx : busWrite [reg] s1 with ⟨k, s2⟩
    rw [hx] at wm wh wk we
    dsimp only at wm wh wk we
    have hk1 : k ≤ 1 := by rw [wk]; simp
    have ho2 : s2.env.oracle = s.env.oracle := by rw [we]; simp [ho]
    have hb2 : s2.env.board = s.env.board := by rw [we]; simp [hb]
    have hd2 : s2.env.devRegs = s.env.devRegs := by rw [we, deviceTake_address_devRegs]; simp [hd]
    by_cases hk : k = 1
    · subst hk
      obtain ⟨rm, rh, rl⟩ := busRead_moved n s2
      have rd : (busRead n s2).2.env.devRegs = regsAfterRead s.env slave reg (busRead n s2).1 ∧
          (busRead n s2).2.env.oracle = s.env.oracle ∧ (busRead n s2).2.env.board = s.env.board ∧
          ∃ raw, (busRead n s2).1 = readReturned s.env slave reg n raw := by
        have hh2 : s2.handle = .bound slave := wh.trans hh
        have hbt : bytesTaken s1.params (s1.env.answer 0) 1 [reg].length = 1 := by simp [bytesTaken]
        unfold busRead regsAfterRead readReturned
        simp only [hh2]
        cases hdev : deviceAt s2.env.advance.board slave with
        | none =>
          simp only [Env.advance_board, hb2] at hdev
          simp [setEnv, record, hdev, hd2, ho2, hb2]
        | some dev =>
          have hp : s2.env.pointer dev = reg := by
            rw [we, hbt]
            have : deviceAt s1.env.advance.board slave = some dev := by
              simpa [hb2, hb] using hdev
            simpa using deviceTake_address_pointer this reg _
          simp only [Env.advance_board, hb2] at hdev
          simp [setEnv, record, hdev, hd2, ho2, hb2, deviceGive_devRegs, hp]
          exact ⟨_, readData_congr (by simp [ho2]) (by simp [hd2]) ..⟩
      rcases hy : busRead n s2 with ⟨data, s3⟩
      rw [hy] at rm rh rl rd
      dsimp only at rm rh rl rd
      obtain ⟨rd, ro, rb, rr⟩ := rd
      have hev : Transacted s (close s3) (readEvents s r slave reg n data) := by
        refine ⟨?_, rfl, by simpa using ro, by simpa using rb⟩
        have := ((hm.trans wm).trans rm).trans (close_moved s3)
        simpa [readEvents, boundEvents] using this
      by_cases hlt : data.length < n
      · refine .inr (.inl ⟨r, hr, close s3, data, hlt, ?_, hev, by simpa using rd, rr⟩)
        simp [hmr, readBytes, hx, hy, hlt, Res.mapState]
      · refine .inr (.inr ⟨r, hr, close s3, data, ?_, ?_, hev, by simpa using rd, rr⟩)
        · have : data.length ≤ n := by rw [rl]; exact Nat.min_le_left ..
          omega
        · simp [hmr, readBytes, hx, hy, hlt, Res.mapState]
    · obtain rfl : k = 0 := by omega
      obtain ⟨nm, no, nb, nd⟩ := readNotMade_moved reg n (s1.env.answer 0) s2
      refine .inl ⟨r, hr, close (readNotMade reg n (s1.env.answer 0) s2), ?_, ⟨?_, rfl, ?_, ?_⟩, ?_⟩
      · simp [hmr, readBytes, hx, Res.mapState]
      · simpa [boundEvents] using ((hm.trans wm).trans nm).trans (close_moved _)
      · simpa using no.trans ho2
      · simpa using nb.trans hb2
      · simpa using nd.trans hd2

/-! ## Write transactions -/

/-- Device registers after `taken` bytes of a write buffer arrived at a slave (R59, R60), whatever pointer they leave. -/
def regsAfterWrite (e : Env) (slave : SlaveAddr) (taken : List Byte) : Memory := (deviceTake e slave taken 0x00#8).devRegs

theorem deviceTake_devRegs (e : Env) (slave : SlaveAddr) (taken : List Byte) (p : Byte) :
    (deviceTake e slave taken p).devRegs = regsAfterWrite e slave taken := by
  unfold regsAfterWrite deviceTake
  split <;> simp

theorem regsAfterWrite_congr {e e' : Env} (ho : e'.oracle = e.oracle) (hb : e'.board = e.board)
    (hd : e'.devRegs = e.devRegs) (slave : SlaveAddr) (taken : List Byte) :
    regsAfterWrite e' slave taken = regsAfterWrite e slave taken := by
  unfold regsAfterWrite deviceTake
  rw [hb]
  split <;> simp [deviceStore, ho, hd]

/-- Everything a write transaction can do (R131, R134, R137): `k` bytes were reported moved and the slave has taken `j`
of them, all of them when the transfer was full. -/
theorem memWrite_cases {slave : SlaveAddr} {reg : Byte} {v : List Byte} {s : State} (hs : s.handle = .closed) :
    (∃ t, memWrite slave reg v s = .err .busUnavailable t ∧
      Transacted s t (openEvents s.busPath s.params.retryDelay s.params.maxRetries false) ∧
      t.env.devRegs = s.env.devRegs) ∨
    (∃ r ≤ s.params.maxRetries, ∃ t, memWrite slave reg v s = .err .busUnavailable t ∧
      Transacted s t (openEvents s.busPath s.params.retryDelay r true ++ [.busBind slave false, .busClose]) ∧
      t.env.devRegs = s.env.devRegs) ∨
    (∃ r ≤ s.params.maxRetries, ∃ t, ∃ k ≤ v.length, ∃ j ≤ v.length + 1,
      memWrite slave reg v s = .err (.shortTransfer k []) t ∧
      Transacted s t (writeEvents s r slave reg v k) ∧
      (s.params.shortWriteEffect = .exactPrefix → j = k) ∧
      t.env.devRegs = regsAfterWrite s.env slave ((reg :: v).take j)) ∨
    (∃ r ≤ s.params.maxRetries, ∃ t,
      memWrite slave reg v s = .ok () t ∧
      Transacted s t (writeEvents s r slave reg v (v.length + 1)) ∧
      t.env.devRegs = regsAfterWrite s.env slave (reg :: v)) := by
  rcases openTransaction_cases (slave := slave) hs with ⟨t, h, ht, hd⟩ | ⟨r, hr, t, h, ht, hd⟩ |
      ⟨r, hr, s1, h, hm, hh, ho, hb, hd⟩
  · exact .inl ⟨t, by simp [memWrite, h, Res.andThen], ht, hd⟩
  · exact .inr (.inl ⟨r, hr, t, by simp [memWrite, h, Res.andThen], ht, hd⟩)
  · refine .inr (.inr ?_)
    have hmr : memWrite slave reg v s = (writeBytes reg v s1).mapState close := by simp [memWrite, h, Res.andThen]
    obtain ⟨wm, wh, wk⟩ := busWrite_moved (reg :: v) s1
    have we := busWrite_env hh (reg :: v)
    rcases hx : busWrite (reg :: v) s1 with ⟨k, s2⟩
    rw [hx] at wm wh wk we
    dsimp only at wm wh wk we
    have hk : k ≤ v.length + 1 := by rw [wk]; simp
    have hev : Transacted s (close s2) (writeEvents s r slave reg v k) := by
      refine ⟨?_, rfl, by simp [we, ho], by simp [we, hb]⟩
      simpa [writeEvents, boundEvents] using (hm.trans wm).trans (close_moved s2)
    have hd2 (j : Nat) (hj : bytesTaken s1.params (s1.env.answer 0) k (reg :: v).length = j) :
        (close s2).env.devRegs = regsAfterWrite s.env slave ((reg :: v).take j) := by
      rw [close_env, we, hj, deviceTake_devRegs]
      exact regsAfterWrite_congr (by simp [ho]) (by simp [hb]) (by simp [hd]) _ _
    by_cases hfull : k = v.length + 1
    · subst hfull
      refine .inr ⟨r, hr, close s2, by simp [hmr, writeBytes, hx, Res.mapState], hev, ?_⟩
      have := hd2 (v.length + 1) (by simp [bytesTaken])
      rwa [List.take_of_length_le (by simp)] at this
    · refine .inl ⟨r, hr, close s2, k, by omega, bytesTaken s1.params (s1.env.answer 0) k (reg :: v).length, ?_, ?_, hev,
        ?_, hd2 _ rfl⟩
      · unfold bytesTaken
        split
        · simp
        · cases s1.params.shortWriteEffect with
          | exactPrefix => exact hk
          | anyPrefix => exact (Nat.min_le_right _ _).trans (by simp)
      · simp [hmr, writeBytes, hx, hfull, Res.mapState]
      · intro he
        simp [bytesTaken, hfull, hm.params, he]

/-! ## Transactions whose answers are known -/

theorem openTransaction_granted {slave : SlaveAddr} {s : State} {r : Nat} (h : OpenGranted s 0 r) :
    ∃ t, openTransaction slave s = .ok () t ∧
      Moved s t (openEvents s.busPath s.params.retryDelay r true ++ [.busBind slave true]) ∧
      t.handle = .bound slave ∧ s.env.Asked t.env (r + 2) := by
  obtain ⟨p, hp⟩ : ∃ p, s.busPath = .path p := by
    cases hp : s.busPath with
    | noPath => exact absurd hp h.path
    | path p => exact ⟨p, rfl⟩
  obtain ⟨h1, ha, hm, hh⟩ := openAttempts_granted r s.params.maxRetries s hp h.retries
    (fun j hj => by simpa using h.refused j hj) (by simpa using h.opened)
  rcases hx : openAttempts s.params.maxRetries s with ⟨b, s1⟩
  rw [hx] at h1 ha hm hh
  dsimp only at h1 ha hm hh
  subst h1
  obtain ⟨bm, bh, ba, be⟩ := busBind_moved slave (setHandle .opened s1)
  rcases hy : busBind slave (setHandle .opened s1) with ⟨b, s2⟩
  rw [hy] at bm bh ba be
  dsimp only at bm bh ba be
  have hb : b = true := by
    rw [ba, setHandle_env, ha.answer]
    simpa using h.bound
  subst hb
  refine ⟨setHandle (.bound slave) s2, by simp [openTransaction, hx, hy], ?_, rfl, ?_⟩
  · simpa using ((hm.trans (setHandle_moved .opened s1)).trans bm).trans (setHandle_moved (.bound slave) s2)
  · rw [setHandle_env, be]
    exact ha.trans (.advance _)

/-- The latches of the expander after a granted read of `n` bytes from `reg` that used `m` answers (R63): each is what
`latchAfterRead` makes of it, and before that changed only if one of those answers latched a condition. -/
structure LatchesRead (e e' : Env) (m : Nat) (reg : Byte) (n : Nat) : Prop where
  latchA : ∃ any l, e'.latchA = latchAfterRead 0x10#8 reg n n any l ∧
    ((∀ j < m, (e.answer j).irqA = false) → l = e.latchA)
  latchB : ∃ any l, e'.latchB = latchAfterRead 0x11#8 reg n n any l ∧
    ((∀ j < m, (e.answer j).irqB = false) → l = e.latchB)

/-- A read transaction the environment grants returns exactly `n` bytes (R136). -/
theorem memRead_granted {slave : SlaveAddr} {reg : Byte} {n : Nat} {s : State} {r : Nat} (h : ReadGranted s 0 r n) :
    ∃ t, ∃ data : List Byte, data.length = n ∧ memRead slave reg n s = .ok data t ∧
      Transacted s t (readEvents s r slave reg n data) ∧ (∀ j, t.env.answer j = s.env.answer (j + (r + 4))) ∧
      t.env.devRegs = regsAfterRead s.env slave reg data ∧
      data = readReturned s.env slave reg n ((s.env.answer (r + 3)).data.take n) ∧
      (deviceAt s.env.board slave = some .gpio → LatchesRead s.env t.env (r + 4) reg n) := by
  obtain ⟨s1, ho, hm, hh, ha⟩ := openTransaction_granted (slave := slave) h.toOpenGranted
  have hw : 1 ≤ (s.env.answer (r + 2)).count := by simpa using h.address
  have hr : n ≤ (s.env.answer (r + 3)).data.length := by simpa using h.bytes
  have hmr : memRead slave reg n s = (readBytes reg n s1).mapState close := by simp [memRead, ho, Res.andThen]
  obtain ⟨wm, wh, wk⟩ := busWrite_moved [reg] s1
  have we := busWrite_env hh [reg]
  rcases hx : busWrite [reg] s1 with ⟨k, s2⟩
  rw [hx] at wm wh wk we
  dsimp only at wm wh wk we
  have hk : k = 1 := by
    rw [wk, ha.answer]
    simpa using hw
  subst hk
  have hbt : bytesTaken s1.params (s1.env.answer 0) 1 [reg].length = 1 := by simp [bytesTaken]
  rw [hbt] at we
  have hans2 (j : Nat) : s2.env.answer j = s.env.answer (j + (r + 3)) := by
    rw [we, deviceTake_answer, Env.advance_answer, ha.answer]; congr 1; omega
  have ho2 : s2.env.oracle = s.env.oracle := by rw [we]; simp [ha.oracle]
  have hb2 : s2.env.board = s.env.board := by rw [we]; simp [ha.board]
  have hd2 : s2.env.devRegs = s.env.devRegs := by
    have := deviceTake_address_devRegs s1.env.advance slave reg 1 (s1.env.answer 0).pointer
    rw [we]; simpa [ha.devRegs] using this
  obtain ⟨rm, rh, rl⟩ := busRead_moved n s2
  have rd : (busRead n s2).2.env.devRegs = regsAfterRead s.env slave reg (busRead n s2).1 ∧
      (busRead n s2).2.env.oracle = s.env.oracle ∧ (busRead n s2).2.env.board = s.env.board ∧
      (∀ j, (busRead n s2).2.env.answer j = s2.env.answer (j + 1)) ∧
      (busRead n s2).1 = readReturned s.env slave reg n ((s2.env.answer 0).data.take n) ∧
      (deviceAt s.env.board slave = some .gpio →
        (busRead n s2).2.env.latchA =
          latchAfterRead 0x10#8 reg n (busRead n s2).1.length (s2.env.answer 0).irqA s2.env.advance.latchA ∧
        (busRead n s2).2.env.latchB =
          latchAfterRead 0x11#8 reg n (busRead n s2).1.length (s2.env.answer 0).irqB s2.env.advance.latchB) := by
    have hh2 : s2.handle = .bound slave := wh.trans hh
    unfold busRead regsAfterRead readReturned
    simp only [hh2]
    cases hdev : deviceAt s2.env.advance.board slave with
    | none =>
      simp only [Env.advance_board, hb2] at hdev
      simp [setEnv, record, hdev, hd2, ho2, hb2]
    | some dev =>
      have hp : s2.env.pointer dev = reg := by
        have : deviceAt s1.env.advance.board slave = some dev := by
          simpa [hb2, ha.board] using hdev
        rw [we]
        simpa using deviceTake_address_pointer this reg _
      simp only [Env.advance_board, hb2] at hdev
      simp [setEnv, record, hdev, hd2, ho2, hb2, deviceGive_devRegs, hp]
      refine ⟨readData_congr (by simp [ho2]) (by simp [hd2]) .., ?_⟩
      rintro rfl
      have hl := fun bs w => deviceGive_latches s2.env.advance slave n bs w
      simp only [Env.advance_pointer, hp] at hl
      exact ⟨(hl _ _).1.trans (by simp), (hl _ _).2.trans (by simp)⟩
  rcases hy : busRead n s2 with ⟨data, s3⟩
  rw [hy] at rm rh rl rd
  dsimp only at rm rh rl rd
  obtain ⟨rd, ro, rb, ra, rr, rlat⟩ := rd
  have hlen : data.length = n := by rw [rl, hans2]; simpa using hr
  refine ⟨close s3, data, hlen, by simp [hmr, readBytes, hx, hy, hlen, Res.mapState],
    ⟨?_, rfl, by simpa using ro, by simpa using rb⟩, ?_, by simpa using rd, by rw [rr, hans2]; simp, ?_⟩
  · simpa [readEvents, boundEvents] using ((hm.trans wm).trans rm).trans (close_moved s3)
  · intro j
    rw [close_env, ra, hans2]; congr 1; omega
  · intro hg
    obtain ⟨hA, hB⟩ := rlat hg
    rw [hlen] at hA hB
    have ans : s.env.answer (r + 2 + 1) = s2.env.answer 0 := by rw [hans2]; congr 1; omega
    have keepA := (ha.trans (.advance _)).latchA
    have keepB := (ha.trans (.advance _)).latchB
    refine ⟨⟨_, _, hA, fun k => ?_⟩, ⟨_, _, hB, fun k => ?_⟩⟩
    · have h3 : (s2.env.answer 0).irqA = false := by rw [← ans]; exact k _ (by omega)
      simp only [Env.advance, h3, Bool.or_false]
      rw [we, deviceTake_latchA]
      exact keepA fun j hj => k j (by omega)
    · have h3 : (s2.env.answer 0).irqB = false := by rw [← ans]; exact k _ (by omega)
      simp only [Env.advance, h3, Bool.or_false]
      rw [we, deviceTake_latchB]
      exact keepB fun j hj => k j (by omega)

/-- A write transaction the environment grants succeeds (R137). -/
theorem memWrite_granted {slave : SlaveAddr} {reg : Byte} {v : List Byte} {s : State} {r : Nat}
    (h : WriteGranted s 0 r v.length) :
    ∃ t, memWrite slave reg v s = .ok () t ∧ Transacted s t (writeEvents s r slave reg v (v.length + 1)) ∧
      (∀ j, t.env.answer j = s.env.answer (j + (r + 3))) ∧ t.env.devRegs = regsAfterWrite s.env slave (reg :: v) := by
  obtain ⟨s1, ho, hm, hh, ha⟩ := openTransaction_granted (slave := slave) h.toOpenGranted
  have hw : v.length + 1 ≤ (s.env.answer (r + 2)).count := by simpa using h.moved
  have hmr : memWrite slave reg v s = (writeBytes reg v s1).mapState close := by simp [memWrite, ho, Res.andThen]
  obtain ⟨wm, wh, wk⟩ := busWrite_moved (reg :: v) s1
  have we := busWrite_env hh (reg :: v)
  rcases hx : busWrite (reg :: v) s1 with ⟨k, s2⟩
  rw [hx] at wm wh wk we
  dsimp only at wm wh wk we
  have hk : k = v.length + 1 := by
    rw [wk, ha.answer]
    simpa using hw
  subst hk
  have hbt : bytesTaken s1.params (s1.env.answer 0) (v.length + 1) (reg :: v).length = v.length + 1 := by
    simp [bytesTaken]
  rw [hbt, List.take_of_length_le (by simp)] at we
  refine ⟨close s2, by simp [hmr, writeBytes, hx, Res.mapState], ⟨?_, rfl, by simp [we, ha.oracle], by simp [we, ha.board]⟩,
    ?_, ?_⟩
  · simpa [writeEvents, boundEvents] using (hm.trans wm).trans (close_moved s2)
  · intro j
    rw [close_env, we, deviceTake_answer, Env.advance_answer, ha.answer]; congr 1; omega
  · rw [close_env, we, deviceTake_devRegs]
    exact regsAfterWrite_congr (by simp [ha.oracle]) (by simp [ha.board]) (by simp [ha.devRegs]) _ _

/-- With no path, or when every open is refused, a read transaction ends after the open loop (R51, R131). -/
theorem memRead_refused {slave : SlaveAddr} {reg : Byte} {n : Nat} {s : State} (hs : s.handle = .closed)
    (h : s.busPath = .noPath ∨ ∀ j ≤ s.params.maxRetries, (s.env.answer j).ok = false) :
    ∃ t, memRead slave reg n s = .err .busUnavailable t ∧
      Transacted s t (openEvents s.busPath s.params.retryDelay s.params.maxRetries false) ∧
      t.env.devRegs = s.env.devRegs := by
  have hx := openAttempts_refused s.params.maxRetries s h
  obtain ⟨r, hr, m, hm, hh, ha, hf⟩ := openAttempts_moved s.params.maxRetries s
  obtain rfl := hf hx
  rcases ho : openAttempts s.params.maxRetries s with ⟨b, s1⟩
  rw [ho] at hx hm hh ha
  dsimp only at hx
  subst hx
  exact ⟨s1, by simp [memRead, openTransaction, ho, Res.andThen], ⟨hm, hh.trans hs, ha.oracle, ha.board⟩, ha.devRegs⟩

/-- The same for a write transaction. -/
theorem memWrite_refused {slave : SlaveAddr} {reg : Byte} {v : List Byte} {s : State} (hs : s.handle = .closed)
    (h : s.busPath = .noPath ∨ ∀ j ≤ s.params.maxRetries, (s.env.answer j).ok = false) :
    ∃ t, memWrite slave reg v s = .err .busUnavailable t ∧
      Transacted s t (openEvents s.busPath s.params.retryDelay s.params.maxRetries false) ∧
      t.env.devRegs = s.env.devRegs := by
  have hx := openAttempts_refused s.params.maxRetries s h
  obtain ⟨r, hr, m, hm, hh, ha, hf⟩ := openAttempts_moved s.params.maxRetries s
  obtain rfl := hf hx
  rcases ho : openAttempts s.params.maxRetries s with ⟨b, s1⟩
  rw [ho] at hx hm hh ha
  dsimp only at hx
  subst hx
  exact ⟨s1, by simp [memWrite, openTransaction, ho, Res.andThen], ⟨hm, hh.trans hs, ha.oracle, ha.board⟩, ha.devRegs⟩

end Sys2Proof.Machine
end

