-- ==== Sys2Proof/Laws/Commands.lean ====
section
/-! SUPPORT. What a whole command can do: how it ends, and everything the pieces built from transactions can do, said
once by `Run` and carried through `andThen`, `mapState`, the driver templates and `deliver`. -/

namespace Sys2Proof.Machine

open Sys2Proof.Safety

/-! ## The end of a command (R8, R276) -/

theorem closeIfOpen_closed {s : State} (h : s.handle = .closed) : closeIfOpen s = s := by
  unfold closeIfOpen; rw [h]

theorem closeIfOpen_handle (s : State) : (closeIfOpen s).handle = .closed := by
  unfold closeIfOpen; split <;> simp_all [close]

theorem runCommand_ok {body : State → Res Unit} {s t : State} (h : body (beginCommand s) = .ok () t) :
    runCommand body s = finish t := by
  simp [runCommand, h, endCommand]

theorem runCommand_err {body : State → Res Unit} {s t : State} {f : Failure} (h : body (beginCommand s) = .err f t)
    (ht : t.handle = .closed) : runCommand body s = postFailure f t := by
  simp [runCommand, h, endCommand, raise, closeIfOpen_closed ht]

/-- An illegal command changes STATUS, RVAL, RLEN and BUSY only (R97, R275). -/
theorem illegalCommand_eq {s : State} (h : s.handle = .closed) :
    illegalCommand s = { s with status := 0xFF#8, rval := 0, rlen := 0, busy := false } := by
  simp [illegalCommand, runCommand, endCommand, raise, closeIfOpen, beginCommand, h, postFailure, Failure.code,
    Failure.rlenAfter]

/-! ## Bracketed histories (R138) -/

theorem bracketRun_append {l l' : List Event} : ∀ {b c : Bracket}, bracketRun b l = some c →
    bracketRun b (l ++ l') = bracketRun c l' := by
  induction l with
  | nil => intro b c h; cases h; rfl
  | cons e l ih =>
    intro b c h
    simp only [List.cons_append, bracketRun] at h ⊢
    split at h
    · cases h
    · exact ih h

theorem wellBracketed_iff {l : List Event} : wellBracketed l = true ↔ bracketRun .outside l = some .outside := by
  simp [wellBracketed]

theorem wellBracketed_nil : wellBracketed [] = true := rfl

theorem wellBracketed_append {l l' : List Event} (h : wellBracketed l = true) (h' : wellBracketed l' = true) :
    wellBracketed (l ++ l') = true := by
  rw [wellBracketed_iff] at *
  rw [bracketRun_append h, h']

/-- The open loop, failed in the end or not, then what follows it. -/
theorem bracketRun_openEvents (p : BusPath) (d r : Nat) (ok : Bool) (l : List Event) :
    bracketRun .outside (openEvents p d r ok ++ l) = bracketRun (if ok then .opened else .outside) l := by
  induction r with
  | zero => cases ok <;> rfl
  | succ r ih => simpa [openEvents, bracketRun, bracketStep] using ih

theorem wellBracketed_refused (p : BusPath) (d r : Nat) : wellBracketed (openEvents p d r false) = true := by
  simpa [wellBracketed_iff, bracketRun] using bracketRun_openEvents p d r false []

theorem wellBracketed_unbound (p : BusPath) (d r : Nat) (a : SlaveAddr) :
    wellBracketed (openEvents p d r true ++ [.busBind a false, .busClose]) = true := by
  rw [wellBracketed_iff, bracketRun_openEvents]; rfl

theorem wellBracketed_write (p : BusPath) (d r : Nat) (a : SlaveAddr) (buf : List Byte) (k : Nat) :
    wellBracketed (openEvents p d r true ++ boundEvents a [.busWrite buf k]) = true := by
  rw [wellBracketed_iff, bracketRun_openEvents]
  have hd : ∃ b, bracketStep .bound (.busWrite buf k) = some b ∧ bracketStep b .busClose = some .outside := by
    by_cases h : k = 1
    · subst h
      rcases buf with _ | ⟨b, _ | ⟨b', bs⟩⟩ <;> exact ⟨_, rfl, rfl⟩
    · exact ⟨.done, by unfold bracketStep; split <;> simp_all, rfl⟩
  obtain ⟨b, hb, hc⟩ := hd
  show bracketRun .bound [.busWrite buf k, .busClose] = _
  simp [bracketRun, hb, hc]

theorem wellBracketed_read (p : BusPath) (d r : Nat) (a : SlaveAddr) (reg : Byte) (n k : Nat) (data : List Byte) :
    wellBracketed (openEvents p d r true ++ boundEvents a [.busWrite [reg] 1, .busRead n k data]) = true := by
  rw [wellBracketed_iff, bracketRun_openEvents]; rfl

/-! ## Transactions composed -/

theorem Moved.closed_refl {s : State} (h : s.handle = .closed) : Transacted s s [] := ⟨.refl s, h, rfl, rfl⟩

theorem Transacted.trans {s t u : State} {e1 e2 : List Event} (h : Transacted s t e1) (h' : Transacted t u e2) :
    Transacted s u (e1 ++ e2) :=
  ⟨h.moved.trans h'.moved, h'.handle, h'.oracle.trans h.oracle, h'.board.trans h.board⟩

/-- What the last events of a failed piece are, by the failure (R271 to R275); `p` are the parameters. No count exceeds
what a transfer buffer holds (R142). -/
def LastEvents (path : BusPath) (p : Params) : Failure → List Event → Prop
  | .busUnavailable, l =>
    l = openEvents path p.retryDelay p.maxRetries false ∨
      ∃ r ≤ p.maxRetries, ∃ a, l = openEvents path p.retryDelay r true ++ [.busBind a false, .busClose]
  | .shortTransfer k data, l =>
    k ≤ 63 ∧ ∃ r ≤ p.maxRetries, ∃ a transfers, l = openEvents path p.retryDelay r true ++ boundEvents a transfers ∧
      ((∃ buf, transfers = [.busWrite buf k] ∧ k < buf.length ∧ data = []) ∨
        (∃ reg n, transfers = [.busWrite [reg] 1, .busRead n data.length data] ∧ data.length < n ∧ k = data.length))
  | .invalidPin, l | .invalidPort, l | .memoryRangeError, l | .illegalCommand, l => l = []

theorem LastEvents.wellBracketed {path : BusPath} {p : Params} {f : Failure} {l : List Event}
    (h : LastEvents path p f l) : wellBracketed l = true := by
  cases f with
  | busUnavailable =>
    rcases h with rfl | ⟨r, _, a, rfl⟩
    · exact wellBracketed_refused ..
    · exact wellBracketed_unbound ..
  | shortTransfer k data =>
    obtain ⟨_, r, _, a, tr, rfl, ⟨buf, rfl, _⟩ | ⟨reg, n, rfl, _⟩⟩ := h
    · exact wellBracketed_write ..
    · exact wellBracketed_read ..
  | invalidPin => cases h; rfl
  | invalidPort => cases h; rfl
  | memoryRangeError => cases h; rfl
  | illegalCommand => cases h; rfl

/-- What the last events of a piece are: none after a success. -/
def ResEvents {α : Type} (path : BusPath) (p : Params) : Res α → List Event → Prop
  | .ok _ _, l  => l = []
  | .err f _, l => LastEvents path p f l

/-- A piece of a command made of transactions: it moved only the history, HANDLE and the environment; complete
transactions first, and after a failure the events that explain it (R210, R278: the first failure ends the command). -/
structure Run {α : Type} (s : State) (r : Res α) (earlier last : List Event) : Prop where
  transacted : Transacted s r.state (earlier ++ last)
  brackets   : wellBracketed earlier = true
  failure    : ResEvents s.busPath s.params r last

theorem Run.ok {α : Type} {s : State} (h : s.handle = .closed) (a : α) : Run s (.ok a s) [] [] :=
  ⟨Moved.closed_refl h, rfl, rfl⟩

theorem Run.all_brackets {α : Type} {s : State} {r : Res α} {e l : List Event} (h : Run s r e l) :
    wellBracketed (e ++ l) = true := by
  refine wellBracketed_append h.brackets ?_
  have := h.failure
  cases r with
  | ok a t => cases this; rfl
  | err f t => exact LastEvents.wellBracketed this

/-- The piece after a piece. -/
theorem Run.andThen {α β : Type} {s : State} {r : Res α} {f : α → State → Res β} {e l : List Event} (h : Run s r e l)
    (hf : ∀ a t, r = .ok a t → t.handle = .closed → ∃ e' l', Run t (f a t) e' l') : ∃ e' l', Run s (r.andThen f) e' l' := by
  cases r with
  | err g t => exact ⟨e, l, h.transacted, h.brackets, h.failure⟩
  | ok a t =>
    have hl : l = [] := h.failure
    subst hl
    have ht : Transacted s t e := by simpa [Res.state] using h.transacted
    obtain ⟨e', l', h'⟩ := hf a t rfl ht.handle
    refine ⟨e ++ e', l', ?_, wellBracketed_append h.brackets h'.brackets, ?_⟩
    · have := ht.trans h'.transacted
      rw [List.append_assoc]
      exact this
    · have := h'.failure
      rwa [ht.moved.busPath, ht.moved.params] at this

theorem memRead_run {slave : SlaveAddr} {reg : Byte} {n : Nat} {s : State} (hs : s.handle = .closed) (hn : n ≤ 63) :
    ∃ e l, Run s (memRead slave reg n s) e l := by
  rcases memRead_cases (slave := slave) (reg := reg) (n := n) hs with ⟨t, h, ht, _⟩ | ⟨r, hr, t, h, ht, _⟩ |
    ⟨r, hr, t, h, ht, _⟩ | ⟨r, hr, t, data, hd, h, ht, _⟩ | ⟨r, hr, t, data, hd, h, ht, _⟩ <;> rw [h]
  · exact ⟨[], _, ht, rfl, .inl rfl⟩
  · exact ⟨[], _, ht, rfl, .inr ⟨r, hr, slave, rfl⟩⟩
  · exact ⟨[], _, ht, rfl, by omega, r, hr, slave, _, rfl, .inl ⟨[reg], rfl, by simp, rfl⟩⟩
  · exact ⟨[], _, ht, rfl, by omega, r, hr, slave, _, rfl, .inr ⟨reg, n, rfl, hd, rfl⟩⟩
  · exact ⟨_, [], by rw [List.append_nil]; exact ht, wellBracketed_read .., rfl⟩

theorem memWrite_run {slave : SlaveAddr} {reg : Byte} {v : List Byte} {s : State} (hs : s.handle = .closed)
    (hv : v.length ≤ 63) : ∃ e l, Run s (memWrite slave reg v s) e l := by
  rcases memWrite_cases (slave := slave) (reg := reg) (v := v) hs with ⟨t, h, ht, _⟩ | ⟨r, hr, t, h, ht, _⟩ |
    ⟨r, hr, t, k, hk, j, _, h, ht, _⟩ | ⟨r, hr, t, h, ht, _⟩ <;> rw [h]
  · exact ⟨[], _, ht, rfl, .inl rfl⟩
  · exact ⟨[], _, ht, rfl, .inr ⟨r, hr, slave, rfl⟩⟩
  · exact ⟨[], _, ht, rfl, by omega, r, hr, slave, _, rfl, .inl ⟨reg :: v, rfl, by simp; omega, rfl⟩⟩
  · exact ⟨_, [], by rw [List.append_nil]; exact ht, wellBracketed_write .., rfl⟩

theorem gpioRead_run {reg : Byte} {s : State} (hs : s.handle = .closed) : ∃ e l, Run s (gpioRead reg s) e l := by
  obtain ⟨e, l, h⟩ := memRead_run (slave := s.gpioAddr) (reg := reg) (n := 1) hs (by omega)
  exact h.andThen fun a t _ ht => ⟨[], [], .ok ht _⟩

theorem gpioWrite_run {reg v : Byte} {s : State} (hs : s.handle = .closed) : ∃ e l, Run s (gpioWrite reg v s) e l :=
  memWrite_run hs (by simp)

theorem pinSet_run {base pin value : Byte} {s : State} (hs : s.handle = .closed) :
    ∃ e l, Run s (pinSet base pin value s) e l := by
  unfold pinSet
  split
  · exact ⟨[], [], Moved.closed_refl hs, rfl, rfl⟩
  · obtain ⟨e, l, h⟩ := gpioRead_run hs
    exact h.andThen fun a t _ ht => gpioWrite_run ht

theorem portWrite_run {base port value : Byte} {s : State} (hs : s.handle = .closed) :
    ∃ e l, Run s (portWrite base port value s) e l := by
  unfold portWrite
  split
  · exact ⟨[], [], Moved.closed_refl hs, rfl, rfl⟩
  · exact gpioWrite_run hs

theorem gpioWrites_run (ws : List (Byte × Byte)) : ∀ {s : State}, s.handle = .closed → ∃ e l, Run s (gpioWrites ws s) e l := by
  induction ws with
  | nil => intro s hs; exact ⟨[], [], .ok hs _⟩
  | cons w ws ih =>
    intro s hs
    obtain ⟨e, l, h⟩ := gpioWrite_run (reg := w.1) (v := w.2) hs
    exact h.andThen fun a t _ ht => ih ht

theorem gpioAcknowledge_run (rs : List Byte) : ∀ {s : State}, s.handle = .closed →
    ∃ e l, Run s (gpioAcknowledge rs s) e l := by
  induction rs with
  | nil => intro s hs; exact ⟨[], [], .ok hs _⟩
  | cons r rs ih =>
    intro s hs
    obtain ⟨e, l, h⟩ := gpioRead_run (reg := r) hs
    exact h.andThen fun a t _ ht => ih ht

/-! ## Every command -/

/-- The fields no command changes after its first updates, HANDLE closed, and the history grown. -/
structure Grown (s t : State) (evs : List Event) : Prop where
  history : t.history = s.history ++ evs
  handle  : t.handle = .closed
  cmd     : t.cmd = s.cmd
  host    : t.host = s.host
  params  : t.params = s.params
  oracle  : t.env.oracle = s.env.oracle
  board   : t.env.board = s.env.board

theorem Transacted.grown {s t : State} {evs : List Event} (h : Transacted s t evs) : Grown s t evs :=
  ⟨h.moved.history, h.handle, h.moved.cmd, h.moved.host, h.moved.params, h.oracle, h.board⟩

/-- The body of a command, begun in `s`: complete transactions, then after a failure the events that explain it. -/
structure Leaves (s : State) (r : Res Unit) (earlier last : List Event) : Prop where
  grown    : Grown s r.state (earlier ++ last)
  brackets : wellBracketed earlier = true
  failure  : ResEvents s.busPath s.params r last
  clean    : ∀ f u, r = .err f u → u.rval = s.rval ∧ u.rlen = s.rlen

theorem Run.leaves {s : State} {r : Res Unit} {e l : List Event} (h : Run s r e l) : Leaves s r e l := by
  refine ⟨h.transacted.grown, h.brackets, h.failure, ?_⟩
  rintro f u rfl
  exact ⟨h.transacted.moved.rval, h.transacted.moved.rlen⟩

/-- A piece, then an update of registers. -/
theorem Run.leaves_then {α : Type} {s : State} {r : Res α} {e l : List Event} (h : Run s r e l) (post : α → State → State)
    (hpost : ∀ a u, Grown s u (e ++ l) → Grown s (post a u) (e ++ l)) :
    Leaves s (r.andThen fun a u => .ok () (post a u)) e l := by
  have hf := h.failure
  cases r with
  | ok a u => exact ⟨hpost a u h.transacted.grown, h.brackets, hf, by rintro f u h; cases h⟩
  | err f u =>
    refine ⟨h.transacted.grown, h.brackets, hf, ?_⟩
    rintro f u ⟨⟩
    exact ⟨h.transacted.moved.rval, h.transacted.moved.rlen⟩

/-- A piece whose bytes are delivered. -/
theorem Run.leaves_deliver {s : State} {r : Res (List Byte)} {e l : List Event} (h : Run s r e l) :
    Leaves s (deliver r) e l := by
  have hf := h.failure
  have ht := h.transacted
  cases r with
  | ok a u =>
    have g : Grown s u (e ++ l) := ht.grown
    exact ⟨⟨g.history, g.handle, g.cmd, g.host, g.params, g.oracle, g.board⟩, h.brackets, hf, by rintro f u h; cases h⟩
  | err f u =>
    have g : Grown s u (e ++ l) := ht.grown
    have hm : Moved s u (e ++ l) := ht.moved
    cases f <;>
      refine ⟨⟨g.history, g.handle, g.cmd, g.host, g.params, g.oracle, g.board⟩, h.brackets, hf, ?_⟩ <;>
      rintro f u ⟨⟩ <;> exact ⟨hm.rval, hm.rlen⟩

/-- A body that makes no bus call and succeeds. -/
theorem Leaves.pure {s t : State} (h : Grown s t []) : Leaves s (.ok () t) [] [] :=
  ⟨h, rfl, rfl, by rintro f u ⟨⟩⟩

/-- A body that fails before any bus call. -/
theorem Leaves.rejected {s : State} {f : Failure} (hs : s.handle = .closed) (hf : LastEvents s.busPath s.params f []) :
    Leaves s (.err f s) [] [] :=
  ⟨⟨by simp [Res.state], hs, rfl, rfl, rfl, rfl, rfl⟩, rfl, hf, by rintro f u ⟨⟩; exact ⟨rfl, rfl⟩⟩

/-- What every command leaves (R8, R276, R277): its events, an idle block, and the fields no command changes. -/
structure Ended (s t : State) (earlier last : List Event) : Prop extends Grown s t (earlier ++ last) where
  brackets : wellBracketed earlier = true
  busy     : t.busy = false
  result   : (t.status = 0x00#8 ∧ last = []) ∨
    ∃ f : Failure, t.status = f.code ∧ t.rval = 0 ∧ t.rlen = f.rlenAfter 0 ∧ LastEvents s.busPath s.params f last

theorem Leaves.ended {s : State} {body : State → Res Unit} {e l : List Event}
    (h : Leaves (beginCommand s) (body (beginCommand s)) e l) : Ended s (runCommand body s) e l := by
  have hg := h.grown
  have hf := h.failure
  have hc := h.clean
  cases hr : body (beginCommand s) with
  | ok a u =>
    rw [hr] at hg hf
    rw [runCommand_ok hr]
    exact ⟨⟨hg.history, hg.handle, hg.cmd, hg.host, hg.params, hg.oracle, hg.board⟩, h.brackets, rfl, .inl ⟨rfl, hf⟩⟩
  | err f u =>
    rw [hr] at hg hf
    rw [runCommand_err hr hg.handle]
    obtain ⟨h1, h2⟩ := hc f u hr
    refine ⟨⟨hg.history, hg.handle, hg.cmd, hg.host, hg.params, hg.oracle, hg.board⟩, h.brackets, rfl,
      .inr ⟨f, rfl, h1, ?_, hf⟩⟩
    show f.rlenAfter u.rlen = _
    rw [h2]; rfl

theorem illegalCommand_ended {s : State} (hs : s.handle = .closed) : Ended s (illegalCommand s) [] [] :=
  Leaves.ended (Leaves.rejected hs rfl)

theorem pinGet_leaves {base pin : Byte} {s : State} (hs : s.handle = .closed) :
    ∃ e l, Leaves s (pinGet base pin s) e l := by
  unfold pinGet
  split
  · exact ⟨[], [], .rejected hs rfl⟩
  · obtain ⟨e, l, h⟩ := gpioRead_run hs
    exact ⟨e, l, h.leaves_then (fun cur u => setRval ((testBitOf cur _).setWidth 16) u)
      fun _ _ g => ⟨g.history, g.handle, g.cmd, g.host, g.params, g.oracle, g.board⟩⟩

theorem portRead_leaves {base port : Byte} {s : State} (hs : s.handle = .closed) :
    ∃ e l, Leaves s (portRead base port s) e l := by
  unfold portRead
  split
  · exact ⟨[], [], .rejected hs rfl⟩
  · obtain ⟨e, l, h⟩ := gpioRead_run hs
    exact ⟨e, l, h.leaves_then (fun v u => setRval (v.setWidth 16) u)
      fun _ _ g => ⟨g.history, g.handle, g.cmd, g.host, g.params, g.oracle, g.board⟩⟩

theorem writeControl_leaves {new : Byte} {s : State} (hs : s.handle = .closed) :
    ∃ e l, Leaves s (writeControl new s) e l := by
  obtain ⟨e, l, h⟩ := memWrite_run (slave := Config.rtcAddr) (reg := RtcReg.control.addr) (v := [new]) hs (by simp)
  exact ⟨e, l, h.leaves_then (fun _ u => { u with rtcCtrl := new })
    fun _ _ g => ⟨g.history, g.handle, g.cmd, g.host, g.params, g.oracle, g.board⟩⟩

theorem initSteps_run {flag : Bool} {s : State} (hs : s.handle = .closed) : ∃ e l, Run s (initSteps flag s) e l := by
  obtain ⟨e, l, h⟩ := gpioWrite_run (reg := chipConfiguration) (v := s.params.ioconInit) hs
  refine h.andThen fun a t _ ht => ?_
  split
  · obtain ⟨e, l, h⟩ := gpioWrites_run (resetWrites t.params) ht
    exact h.andThen fun a u _ hu => gpioAcknowledge_run _ hu
  · exact ⟨[], [], .ok ht _⟩

/-- The wire bytes of a read become a Calendar Value (R235). -/
theorem readDate_leaves {s : State} {r : Res (List Byte)} {e l : List Event} (h : Run s r e l) :
    Leaves s (r.andThen fun wire u => .ok () (setRlen 8 (setDbuf (wireToCalendar u.century wire) u))) e l := by
  refine h.leaves_then (fun w u => setRlen 8 (setDbuf (wireToCalendar u.century w) u)) fun w u g => ?_
  generalize wireToCalendar u.century w = d
  exact ⟨g.history, g.handle, g.cmd, g.host, g.params, g.oracle, g.board⟩

/-- A body that makes no bus call and returns a value. -/
theorem returnValue_leaves {v : Half} {s : State} (hs : s.handle = .closed) : Leaves s (returnValue v s) [] [] :=
  .pure ⟨by simp [setRval], hs, rfl, rfl, rfl, rfl, rfl⟩

theorem lenOperand_le {c : Byte} {n : Nat} (h : lenOperand c = some n) : n ≤ 63 := by
  simp [lenOperand, lenLegal] at h
  omega

theorem dbufPrefix_length_le (n : Nat) (s : State) : (dbufPrefix n s).length ≤ n := by
  simp [dbufPrefix]

theorem inWindow_length_le {p : Params} {a l : Byte} (h : inWindow p a l = true) : l.toNat ≤ 63 := by
  unfold inWindow at h
  have h := of_decide_eq_true (Bool.and_eq_true_iff.1 h).1
  simp only [Config.memLimit] at h
  omega

/-- Every command from a closed handle ends in a next state, as `Ended` says. -/
theorem exec_ended (i : Instr) {s : State} (hs : s.handle = .closed) :
    ∃ t e l, exec i s = .next t ∧ Ended s t e l := by
  have hb : (beginCommand s).handle = .closed := hs
  have of {body : State → Res Unit} (h : ∃ e l, Leaves (beginCommand s) (body (beginCommand s)) e l) :
      ∃ t e l, (Host.Outcome.next (runCommand body s) : Host.Outcome State Fault Refusal) = .next t ∧ Ended s t e l := by
    obtain ⟨e, l, h⟩ := h
    exact ⟨_, e, l, rfl, h.ended⟩
  have run {r : Res Unit} (h : ∃ e l, Run (beginCommand s) r e l) : ∃ e l, Leaves (beginCommand s) r e l := by
    obtain ⟨e, l, h⟩ := h
    exact ⟨e, l, h.leaves⟩
  have bad : ∃ t e l, (Host.Outcome.next (illegalCommand s) : Host.Outcome State Fault Refusal) = .next t ∧ Ended s t e l :=
    ⟨_, [], [], rfl, illegalCommand_ended hs⟩
  have dlv {r : Res (List Byte)} (h : ∃ e l, Run (beginCommand s) r e l) :
      ∃ e l, Leaves (beginCommand s) (deliver r) e l := by
    obtain ⟨e, l, h⟩ := h
    exact ⟨e, l, h.leaves_deliver⟩
  cases i <;> dsimp only [exec]
  case busSetup => exact of ⟨[], [], .pure ⟨by simp, hs, rfl, rfl, rfl, rfl, rfl⟩⟩
  case i2cRead =>
    unfold execI2cRead
    split
    · rename_i hl
      exact of (dlv (memRead_run hb (lenOperand_le hl)))
    · exact bad
  case i2cWrite =>
    unfold execI2cWrite
    split
    · rename_i hl
      exact of (run (memWrite_run hb ((dbufPrefix_length_le _ _).trans (lenOperand_le hl))))
    · exact bad
  case setBit =>
    unfold execSetBit
    split
    · exact of ⟨[], [], returnValue_leaves hb⟩
    · exact bad
  case testBit =>
    unfold execTestBit
    split
    · exact of ⟨[], [], returnValue_leaves hb⟩
    · exact bad
  case resolvePin pin =>
    refine of ?_
    cases resolvePinOf pin with
    | none => exact ⟨[], [], .rejected hb rfl⟩
    | some p => exact ⟨[], [], returnValue_leaves hb⟩
  case resolvePort port base =>
    refine of ?_
    cases resolvePortOf port base with
    | none => exact ⟨[], [], .rejected hb rfl⟩
    | some p => exact ⟨[], [], returnValue_leaves hb⟩
  case acknowledgeInterrupts port =>
    refine of ?_
    cases resolvePortOf port GpioPair.interruptCapture.base with
    | none => exact ⟨[], [], .rejected hb rfl⟩
    | some p => exact run (gpioAcknowledge_run _ hb)
  case initializeGpio address flag =>
    unfold execInitialize
    split
    · exact bad
    · rename_i a _
      refine of ?_
      obtain ⟨e, l, h⟩ := initSteps_run (flag := boolOperand flag) (s := latchInit a (boolOperand flag) (beginCommand s)) hb
      have h := h.leaves
      have g := h.grown
      exact ⟨e, l, ⟨g.history, g.handle, g.cmd, g.host, g.params, g.oracle, g.board⟩, h.brackets, h.failure, h.clean⟩
  case bcdToDecimal => exact of ⟨[], [], returnValue_leaves hb⟩
  case decimalToBcd => exact of ⟨[], [], returnValue_leaves hb⟩
  case setDate => exact of (run (memWrite_run hb (by simp [calendarToWire])))
  case readDate =>
    obtain ⟨e, l, h⟩ := memRead_run (slave := Config.rtcAddr) (reg := RtcReg.seconds.addr) (n := 7) hb (by omega)
    exact of ⟨e, l, readDate_leaves h⟩
  case enableOutput => unfold execEnableOutput; exact of (writeControl_leaves hb)
  case disableOutput => unfold execDisableOutput; exact of (writeControl_leaves hb)
  case setFrequency => unfold execSetFrequency; exact of (writeControl_leaves hb)
  case writeMemory =>
    refine of ?_
    split
    · rename_i hw
      exact run (memWrite_run hb ((dbufPrefix_length_le _ _).trans (inWindow_length_le hw)))
    · exact ⟨[], [], .rejected hb rfl⟩
  case readMemory =>
    refine of ?_
    split
    · rename_i hw
      exact dlv (memRead_run hb (inWindow_length_le hw))
    · exact ⟨[], [], .rejected hb rfl⟩
  case setCentury => exact of ⟨[], [], .pure ⟨by simp, hs, rfl, rfl, rfl, rfl, rfl⟩⟩
  case setPinDirection | setPinPolarity | setInterruptOnPin | setPinInterruptDefault | setPinInterruptType | setPinPullup |
      writePin => exact of (body := pinSet _ _ _) (run (pinSet_run hb))
  case getPinDirection | getPinPolarity | getInterruptOnPin | getPinInterruptDefault | getPinInterruptType | getPinPullup |
      readPin => exact of (body := pinGet _ _) (pinGet_leaves hb)
  case setPortDirection | setPortPolarity | setInterruptOnPort | setInterruptDefaults | setInterruptType | setPortPullups |
      writePort => exact of (body := portWrite _ _ _) (run (portWrite_run hb))
  case getPortDirection | getPortPolarity | getInterruptOnPort | getInterruptDefaults | getInterruptType | getPortPullups |
      readInterruptStatus | readInterruptCapture | readPort | readOutputLatch =>
    exact of (body := portRead _ _) (portRead_leaves hb)

end Sys2Proof.Machine
end

