-- ==== Sys2Proof/Laws/Devices.lean ====
section
/-! SUPPORT. What a transaction does to the known device registers, register by register (20_memory.md R59 to R62). -/

namespace Sys2Proof.Machine

open Sys2Proof.Safety

/-! ## Reads -/

theorem regsAfterRead_wf {e : Env} (h : e.devRegs.wf) (a : SlaveAddr) (r : Byte) (d : List Byte) :
    (regsAfterRead e a r d).wf := by
  unfold regsAfterRead; split
  · exact storeBytes_wf _ _ _ h
  · exact h

theorem memRead_wf {a : SlaveAddr} {r : Byte} {n : Nat} {s : State} (hs : s.handle = .closed) (h : s.env.devRegs.wf) :
    (memRead a r n s).state.env.devRegs.wf := by
  rcases memRead_cases (slave := a) (reg := r) (n := n) hs with ⟨t, e, ht, hd⟩ | ⟨r, hr, t, e, ht, hd⟩ |
    ⟨r, hr, t, e, ht, hd⟩ | ⟨r, hr, t, data, _, e, ht, hd, _⟩ | ⟨r, hr, t, data, _, e, ht, hd, _⟩ <;>
    rw [e] <;> dsimp only [Res.state] <;> rw [hd] <;> first | exact h | exact regsAfterRead_wf h _ _ _

theorem memWrite_wf {a : SlaveAddr} {r : Byte} {v : List Byte} {s : State} (hs : s.handle = .closed)
    (h : s.env.devRegs.wf) : (memWrite a r v s).state.env.devRegs.wf := by
  rcases memWrite_cases (slave := a) (reg := r) (v := v) hs with ⟨t, e, ht, hd⟩ | ⟨r, hr, t, e, ht, hd⟩ |
    ⟨r, hr, t, k, hk, j, _, e, ht, _, hd⟩ | ⟨r, hr, t, e, ht, hd⟩ <;>
    rw [e] <;> dsimp only [Res.state] <;> rw [hd] <;> first | exact h | exact deviceTake_wf h _ _ _

/-- Outside the registers read nothing changes. -/
theorem regsAfterRead_others (e : Env) (a : SlaveAddr) (r : Byte) (d : List Byte) (x : Nat)
    (h : ∀ i < d.length, x ≠ regKey a (r.toNat + i)) : (regsAfterRead e a r d).read x = e.devRegs.read x := by
  unfold regsAfterRead; split
  · exact storeBytes_read_other a d _ _ h
  · rfl

theorem readData_get (e : Env) (a : SlaveAddr) (dev : Device) (n : Nat) (bs : List Byte) :
    ∀ (r i : Nat) (h : i < bs.length),
      (readData e a dev n r bs)[i]? = some ((fixedByte e a dev n (r + i)).getD bs[i]) := by
  induction bs with
  | nil => intro _ _ h; simp at h
  | cons b bs ih =>
    intro r i h
    cases i with
    | zero => rfl
    | succ i =>
      have := ih (r + 1) i (by simpa using h)
      rw [show r + 1 + i = r + (i + 1) by omega] at this
      simpa [readData] using this

theorem readReturned_length (e : Env) (a : SlaveAddr) (r : Byte) (n : Nat) (raw : List Byte) :
    (readReturned e a r n raw).length = raw.length := by
  unfold readReturned; split <;> simp

/-- A read changes no known byte (R62): the register-block oracle returns what is known. -/
theorem regsAfterRead_known (e : Env) (a : SlaveAddr) (r : Byte) (n : Nat) (raw : List Byte) (hl : raw.length ≤ 256)
    (x : Nat) (b : Byte) (h : e.devRegs.read x = some b) :
    (regsAfterRead e a r (readReturned e a r n raw)).read x = some b := by
  unfold regsAfterRead
  split
  · rename_i ho
    obtain ⟨dev, hdev⟩ := Option.isSome_iff_exists.1 ho.2
    simp only [readReturned, hdev]
    by_cases hx : ∃ i < raw.length, x = regKey a (r.toNat + i)
    · obtain ⟨i, hi, rfl⟩ := hx
      have := storeBytes_read_stored a (readData e a dev n r.toNat raw) r.toNat e.devRegs i (by simpa using hl) (by simpa using hi)
      rw [this]
      have hg := readData_get e a dev n raw r.toNat i hi
      rw [List.getElem?_eq_getElem (by simpa using hi)] at hg
      rw [hg]
      simp [fixedByte, ho.1, h]
    · replace hx : ∀ i < raw.length, x ≠ regKey a (r.toNat + i) := fun i hi h => hx ⟨i, hi, h⟩
      rw [storeBytes_read_other a _ _ _ (by simpa using hx)]
      exact h
  · exact h

/-! ## Writes -/

/-- One byte written to a register the source lists of a device is known afterwards, and nothing else changes. -/
theorem regsAfterWrite_one {e : Env} {a : SlaveAddr} {dev : Device} {r v : Byte} (hd : deviceAt e.board a = some dev)
    (hr : e.oracle = .registerBlock ∨ match dev with
      | .rtc => r.toNat ≤ 0x3F
      | .gpio => gpioListed r.toNat = true) :
    regsAfterWrite e a [r, v] = Memory.write e.devRegs (regKey a r.toNat) v := by
  unfold regsAfterWrite deviceTake deviceStore
  simp only [hd, Env.setPointer_devRegs]
  split
  · rfl
  · rcases hr with hr | hr
    · contradiction
    · cases dev with
      | rtc =>
        dsimp only at hr
        have : r.toNat + [v].length ≤ Config.memHi + 1 := by simp [Config.memHi]; omega
        simp only [List.length_singleton, one_ne_zero, if_false] at this ⊢
        rw [if_pos this]; rfl
      | gpio => simp [hr, storeBytes]

/-- Bytes written inside the RTC's registers are known afterwards, and nothing else changes. -/
theorem regsAfterWrite_rtc {e : Env} {r : Byte} {v : List Byte} (hr : r.toNat + v.length ≤ 0x40) :
    regsAfterWrite e Config.rtcAddr (r :: v) = storeBytes Config.rtcAddr r.toNat v e.devRegs := by
  unfold regsAfterWrite deviceTake deviceStore
  have hd : deviceAt e.board Config.rtcAddr = some .rtc := by simp [deviceAt]
  simp only [hd, Env.setPointer_devRegs]
  split
  · rfl
  · split
    · rename_i h; rw [List.length_eq_zero_iff.1 h]; rfl
    · have : r.toNat + v.length ≤ Config.memHi + 1 := hr
      simp only [this, if_true]

/-- Everything a write of an address byte and a payload can do to what is known: nothing changes outside the registers
written, or the transfer is one of log 14 and nothing of that slave stays known. -/
theorem regsAfterWrite_cases (e : Env) (a : SlaveAddr) (reg : Byte) (payload : List Byte) :
    (∀ x, (∀ i < payload.length, x ≠ regKey a (reg.toNat + i)) →
      (regsAfterWrite e a (reg :: payload)).read x = e.devRegs.read x) ∨
    (e.oracle ≠ .registerBlock ∧
      ((deviceAt e.board a = some .rtc ∧ 0 < payload.length ∧ 0x40 < reg.toNat + payload.length) ∨
        (deviceAt e.board a = some .gpio ∧ 1 < payload.length)) ∧
      regsAfterWrite e a (reg :: payload) = forgetSlave a e.devRegs) := by
  have hst : ∀ x, (∀ i < payload.length, x ≠ regKey a (reg.toNat + i)) →
      (storeBytes a reg.toNat payload e.devRegs).read x = e.devRegs.read x :=
    fun x hx => storeBytes_read_other a payload _ _ hx
  unfold regsAfterWrite deviceTake
  cases hd : deviceAt e.board a with
  | none => exact .inl fun _ _ => rfl
  | some dev =>
    simp only [Env.setPointer_devRegs, deviceStore]
    by_cases ho : e.oracle = .registerBlock
    · exact .inl fun x hx => by rw [if_pos ho]; exact hst x hx
    by_cases hn : payload.length = 0
    · exact .inl fun x hx => by rw [if_neg ho, if_pos hn]
    rw [if_neg ho, if_neg hn]
    cases dev with
    | rtc =>
      by_cases h : reg.toNat + payload.length ≤ Config.memHi + 1
      · exact .inl fun x hx => by simp only [if_pos h]; exact hst x hx
      · refine .inr ⟨ho, .inl ⟨rfl, by omega, ?_⟩, by simp only [if_neg h]⟩
        simp only [Config.memHi] at h; omega
    | gpio =>
      by_cases h : 1 < payload.length
      · exact .inr ⟨ho, .inr ⟨rfl, h⟩, by simp only [if_pos h]⟩
      · refine .inl fun x hx => ?_
        simp only [if_neg h]
        split
        · exact hst x hx
        · rfl

/-- A write to a slave that is no device does nothing. -/
theorem regsAfterWrite_absent {e : Env} {a : SlaveAddr} (hd : deviceAt e.board a = none) (bs : List Byte) :
    regsAfterWrite e a bs = e.devRegs := by
  unfold regsAfterWrite deviceTake
  simp [hd]

/-- A write changes no register of another slave. -/
theorem regsAfterWrite_other_slave (e : Env) (a : SlaveAddr) (bs : List Byte) {x : Nat} (hx : x / 256 ≠ a.toNat) :
    (regsAfterWrite e a bs).read x = e.devRegs.read x := by
  have hst : ∀ (l : List Byte) (r : Nat), (storeBytes a r l e.devRegs).read x = e.devRegs.read x := fun l r =>
    storeBytes_read_other a l _ _ fun i _ h => hx (by rw [h, regKey_div])
  have hds : ∀ (dev : Device) (r : Nat) (l : List Byte), (deviceStore e a dev r l).read x = e.devRegs.read x := by
    intro dev r l
    unfold deviceStore
    split
    · exact hst _ _
    · split
      · rfl
      · cases dev with
        | rtc =>
          simp only
          split
          · exact hst _ _
          · exact forgetSlave_read_other _ hx
        | gpio =>
          simp only
          split
          · exact forgetSlave_read_other _ hx
          · split
            · exact hst _ _
            · rfl
  unfold regsAfterWrite deviceTake
  split
  · rw [Env.setPointer_devRegs]
    exact hds _ _ _
  · rfl

end Sys2Proof.Machine
end

