-- ==== Sys2Proof/Laws/Encoding.lean ====
section
/-! SUPPORT. The fields of a packed word (30_encoding.md R90). -/

namespace Sys2Proof

theorem packWord_bit (o a b c : Byte) (k : Nat) :
    (packWord o a b c).getLsbD k =
      if k < 8 then c.getLsbD k else if k - 8 < 8 then b.getLsbD (k - 8)
      else if k - 8 - 8 < 8 then a.getLsbD (k - 8 - 8) else o.getLsbD (k - 8 - 8 - 8) := by
  show BitVec.getLsbD (w := 8 + 8 + 8 + 8) (o ++ a ++ b ++ c) k = _
  rw [BitVec.getLsbD_append, BitVec.getLsbD_append, BitVec.getLsbD_append]

@[simp] theorem fieldOpc_packWord (o a b c : Byte) : fieldOpc (packWord o a b c) = o := by
  ext i hi
  simp only [fieldOpc, BitVec.getElem_extractLsb', packWord_bit]
  rw [if_neg (by omega), if_neg (by omega), if_neg (by omega), show 24 + i - 8 - 8 - 8 = i by omega]
  exact BitVec.getLsbD_eq_getElem hi
@[simp] theorem fieldA_packWord (o a b c : Byte) : fieldA (packWord o a b c) = a := by
  ext i hi
  simp only [fieldA, BitVec.getElem_extractLsb', packWord_bit]
  rw [if_neg (by omega), if_neg (by omega), if_pos (by omega), show 16 + i - 8 - 8 = i by omega]
  exact BitVec.getLsbD_eq_getElem hi
@[simp] theorem fieldB_packWord (o a b c : Byte) : fieldB (packWord o a b c) = b := by
  ext i hi
  simp only [fieldB, BitVec.getElem_extractLsb', packWord_bit]
  rw [if_neg (by omega), if_pos (by omega), show 8 + i - 8 = i by omega]
  exact BitVec.getLsbD_eq_getElem hi
@[simp] theorem fieldC_packWord (o a b c : Byte) : fieldC (packWord o a b c) = c := by
  ext i hi
  simp only [fieldC, BitVec.getElem_extractLsb', packWord_bit]
  rw [if_pos (by omega), show 0 + i = i by omega]
  exact BitVec.getLsbD_eq_getElem hi

end Sys2Proof
end

