-- ==== Sys2Proof/Tests/Slice0.lean ====
section
/-! SUPPORT. Tests of the model. Expected values are those of spec/95_test_vectors.md (S1 to S8, V1 to V9, P1 to P4)
and of the rules' own examples; the part is named at each test. -/

namespace Sys2Proof.Tests

open Sys2Proof.Machine

/-! ## Ill-formed terms, one for each check of WellFormed (R92, R97) -/

theorem test_wf_refuses_index_eight : (Instr.setBit 0x00 8 1).operandFault = some .indexAboveSeven := by decide
theorem test_wf_refuses_test_index_255 : (Instr.testBit 0xFF 255).wf = false := by decide
theorem test_wf_refuses_slave_above_7F : (Instr.i2cRead 0x80 0 1).operandFault = some .addressAboveSevenBits := by decide
theorem test_wf_refuses_len_64 : (Instr.i2cWrite 0x68 0 64).operandFault = some .lengthAboveSixtyThree := by decide
theorem test_wf_refuses_busAddress_80 : (Instr.initializeGpio 0x80 1).wf = false := by decide
theorem test_wf_accepts_bounds :
    (Instr.setBit 0 7 1).wf && (Instr.i2cRead 0x7F 0xFF 63).wf && (Instr.initializeGpio 0x7F 0).wf = true := by decide

/-! ## Decoding: words written out from R94 and R95 (and V9) -/

theorem test_decode_transport :
    decode 0x01010000#32 = .ok (.busSetup 1) ∧ decode 0x02680007#32 = .ok (.i2cRead 0x68 0 7) ∧
    decode 0x03201201#32 = .ok (.i2cWrite 0x20 0x12 1) := by decide
theorem test_decode_bitops_pinindex :
    decode 0x10A50301#32 = .ok (.setBit 0xA5 3 1) ∧ decode 0x11A502FF#32 = .ok (.testBit 0xA5 2) ∧
    decode 0x12090FF0#32 = .ok (.resolvePin 9) ∧ decode 0x13010C00#32 = .ok (.resolvePort 1 0x0C) := by decide
theorem test_decode_pin_setters :
    decode 0x20000900#32 = .ok (.setPinDirection 9 0) ∧ decode 0x20020201#32 = .ok (.setPinPolarity 2 1) ∧
    decode 0x20040A01#32 = .ok (.setInterruptOnPin 10 1) ∧ decode 0x20060101#32 = .ok (.setPinInterruptDefault 1 1) ∧
    decode 0x20081001#32 = .ok (.setPinInterruptType 16 1) ∧ decode 0x200C0101#32 = .ok (.setPinPullup 1 1) ∧
    decode 0x20120B01#32 = .ok (.writePin 11 1) := by decide
theorem test_decode_pin_getters :
    decode 0x21000300#32 = .ok (.getPinDirection 3) ∧ decode 0x21020200#32 = .ok (.getPinPolarity 2) ∧
    decode 0x21040A00#32 = .ok (.getInterruptOnPin 10) ∧ decode 0x21060100#32 = .ok (.getPinInterruptDefault 1) ∧
    decode 0x21081000#32 = .ok (.getPinInterruptType 16) ∧ decode 0x210C1000#32 = .ok (.getPinPullup 16) ∧
    decode 0x21120B00#32 = .ok (.readPin 11) := by decide
theorem test_decode_port_writes :
    decode 0x220001FF#32 = .ok (.setPortDirection 1 0xFF) ∧ decode 0x22020100#32 = .ok (.setPortPolarity 1 0) ∧
    decode 0x22040001#32 = .ok (.setInterruptOnPort 0 1) ∧ decode 0x22060180#32 = .ok (.setInterruptDefaults 1 0x80) ∧
    decode 0x220800FF#32 = .ok (.setInterruptType 0 0xFF) ∧ decode 0x220C000F#32 = .ok (.setPortPullups 0 0x0F) ∧
    decode 0x22120180#32 = .ok (.writePort 1 0x80) := by decide
theorem test_decode_port_reads :
    decode 0x23000000#32 = .ok (.getPortDirection 0) ∧ decode 0x23020000#32 = .ok (.getPortPolarity 0) ∧
    decode 0x23040100#32 = .ok (.getInterruptOnPort 1) ∧ decode 0x23060000#32 = .ok (.getInterruptDefaults 0) ∧
    decode 0x23080100#32 = .ok (.getInterruptType 1) ∧ decode 0x230C0100#32 = .ok (.getPortPullups 1) ∧
    decode 0x230E0000#32 = .ok (.readInterruptStatus 0) ∧ decode 0x23100100#32 = .ok (.readInterruptCapture 1) ∧
    decode 0x23120100#32 = .ok (.readPort 1) ∧ decode 0x23140000#32 = .ok (.readOutputLatch 0) := by decide
theorem test_decode_init_ack :
    decode 0x24000700#32 = .ok (.acknowledgeInterrupts 7) ∧ decode 0x25240001#32 = .ok (.initializeGpio 0x24 1) := by
  decide
theorem test_decode_rtc :
    decode 0x30590000#32 = .ok (.bcdToDecimal 0x59) ∧ decode 0x313B0000#32 = .ok (.decimalToBcd 59) ∧
    decode 0x32ABCDEF#32 = .ok .setDate ∧ decode 0x33000000#32 = .ok .readDate ∧
    decode 0x34000000#32 = .ok .enableOutput ∧ decode 0x35000000#32 = .ok .disableOutput ∧
    decode 0x36630000#32 = .ok (.setFrequency 99) ∧ decode 0x373B0400#32 = .ok (.writeMemory 0x3B 4) ∧
    decode 0x38083700#32 = .ok (.readMemory 0x08 55) ∧ decode 0x3900076C#32 = .ok (.setCentury 0x07 0x6C) := by decide
theorem test_decode_unknown_opcodes :
    decode 0x00000000#32 = .error .unknownOpcode ∧ decode 0x04000000#32 = .error .unknownOpcode ∧
    decode 0x14000000#32 = .error .unknownOpcode ∧ decode 0x26000000#32 = .error .unknownOpcode ∧
    decode 0x3A000000#32 = .error .unknownOpcode ∧ decode 0xFFFFFFFF#32 = .error .unknownOpcode := by decide
theorem test_decode_illegal_bases :
    decode 0x200B0101#32 = .error .illegalBase ∧ decode 0x200E0101#32 = .error .illegalBase ∧
    decode 0x22140000#32 = .error .illegalBase ∧ decode 0x230A0000#32 = .error .illegalBase ∧
    decode 0x23150000#32 = .error .illegalBase ∧ decode 0x23010000#32 = .error .illegalBase := by decide
theorem test_decode_illegal_operands :
    decode 0x10000801#32 = .error .indexAboveSeven ∧ decode 0x11FFFF00#32 = .error .indexAboveSeven ∧
    decode 0x02680040#32 = .error .lengthAboveSixtyThree ∧ decode 0x02800001#32 = .error .addressAboveSevenBits ∧
    decode 0x25800001#32 = .error .addressAboveSevenBits := by decide
theorem test_table_has_fifty_disjoint_rows :
    opcodeTable.length = 50 ∧
    opcodeTable.Pairwise (fun x y => x.bits &&& (x.mask &&& y.mask) ≠ y.bits &&& (x.mask &&& y.mask)) := by decide
theorem test_decodeTableWord_row : decodeTableWord 32 0x23120100 = some (.readPort 1) := by decide

/-! ## A small bench: reset, `MAX_RETRIES = 2`, `IOCON_INIT = 0x5C`, a bus path, a mailbox of 0xAA, given answers -/

def benchParams : Params where
  maxRetries := 2
  retryDelay := 5
  ioconInit := 0x5C#8
  dirAllInput := 0xFF#8
  sqweBit := 4
  rs0Bit := 0
  rs1Bit := 1
  shortWriteEffect := .exactPrefix
  memLowBoundEnforced := true

def benchEnv (script : List Draw) : Env where
  script := script
  drawn := 0
  oracle := .unconstrained
  board := .default20
  devRegs := []
  rtcPtr := 0x00#8
  gpioPtr := 0x00#8
  latchA := true
  latchB := true

def bench (script : List Draw) : State :=
  { State.reset with
    busPath := .path 1#8
    dbuf := Vector.replicate 64 0xAA#8
    params := benchParams
    env := benchEnv script }

/-- an answer that grants everything and offers these bytes. -/
def grant (data : List Byte) : Draw := ⟨true, 64, 64, data, false, false, 0⟩
/-- an answer that refuses an open or a bind, or moves nothing. -/
def deny : Draw := ⟨false, 0, 0, [], false, false, 0⟩
/-- an answer that moves `k` bytes of a write. -/
def moved (k : Nat) : Draw := ⟨true, k, 0, [], false, false, 0⟩

/-- answers of a complete read transaction that returns `data`. -/
def readOk (data : List Byte) : List Draw := [grant [], grant [], grant [], grant data]
/-- answers of a complete write transaction. -/
def writeOk : List Draw := [grant [], grant [], grant []]

/-- something of the next state. -/
def seen {α : Type} (o : Host.Outcome State Fault Refusal) (f : State → α) : Option α :=
  match o with
  | .next s => some (f s)
  | .fault _ => none
  | .refused _ => none

def results (s : State) : Byte × Half × Byte := (s.status, s.rval, s.rlen)

def openOk : Event := .busOpen (.path 1#8) true
def openFail : Event := .busOpen (.path 1#8) false
def readTx (a : SlaveAddr) (reg : Byte) (n : Nat) (data : List Byte) : List Event :=
  [openOk, .busBind a true, .busWrite [reg] 1, .busRead n data.length data, .busClose]
def writeTx (a : SlaveAddr) (buf : List Byte) : List Event :=
  [openOk, .busBind a true, .busWrite buf buf.length, .busClose]

/-! ## BitOps (S1, V1), PinIndex (S2, V2), codec (S3, V5) -/

theorem test_setBit : seen (exec (.setBit 0xA5 3 1) (bench [])) results = some (0x00, 0x00AD, 0) ∧
    seen (exec (.setBit 0xA5 2 0x80) (bench [])) results = some (0x00, 0x00A5, 0) := by decide
theorem test_setBit_clears : seen (exec (.setBit 0xFF 7 0) (bench [])) results = some (0x00, 0x007F, 0) := by decide
theorem test_testBit : seen (exec (.testBit 0x80 7) (bench [])) results = some (0x00, 0x0001, 0) ∧
    seen (exec (.testBit 0xA5 1) (bench [])) results = some (0x00, 0x0000, 0) := by decide
theorem test_resolvePin_bounds : seen (exec (.resolvePin 16) (bench [])) results = some (0x00, 0x0107, 0) ∧
    seen (exec (.resolvePin 8) (bench [])) results = some (0x00, 0x0007, 0) ∧
    seen (exec (.resolvePin 9) (bench [])) results = some (0x00, 0x0100, 0) := by decide
theorem test_resolvePin_invalid : seen (exec (.resolvePin 0) (bench [])) results = some (0x03, 0x0000, 0) ∧
    seen (exec (.resolvePin 17) (bench [])) results = some (0x03, 0x0000, 0) := by decide
theorem test_resolvePort : seen (exec (.resolvePort 1 0x0C) (bench [])) results = some (0x00, 0x000D, 0) ∧
    seen (exec (.resolvePort 1 0xFF) (bench [])) results = some (0x00, 0x0000, 0) := by decide
theorem test_resolvePort_invalid : seen (exec (.resolvePort 2 0) (bench [])) results = some (0x04, 0x0000, 0) := by decide
theorem test_bcdToDecimal : seen (exec (.bcdToDecimal 0xFF) (bench [])) results = some (0x00, 165, 0) ∧
    seen (exec (.bcdToDecimal 0x1F) (bench [])) results = some (0x00, 25, 0) := by decide
theorem test_decimalToBcd : seen (exec (.decimalToBcd 59) (bench [])) results = some (0x00, 0x0059, 0) ∧
    seen (exec (.decimalToBcd 255) (bench [])) results = some (0x00, 0x0095, 0) := by decide

/-! ## Transport (V3, S7) -/

theorem test_busSetup : seen (exec (.busSetup 7) (bench [])) (fun t => (t.busPath, t.history)) = some (.path 7#8, []) := by
  decide
theorem test_i2cRead : seen (exec (.i2cRead 0x68 0 7) (bench (readOk [0x58, 0x59, 0x23, 0x04, 0x29, 0x02, 0x24])))
    (fun t => (results t, t.history, t.dbuf.toList.take 8)) =
    some ((0x00, 0, 7), readTx 0x68 0 7 [0x58, 0x59, 0x23, 0x04, 0x29, 0x02, 0x24],
      [0x58, 0x59, 0x23, 0x04, 0x29, 0x02, 0x24, 0xAA]) := by decide
theorem test_i2cRead_zero_length : seen (exec (.i2cRead 0x68 0x08 0) (bench (readOk [0x11])))
    (fun t => (results t, t.history)) = some ((0x00, 0, 0), readTx 0x68 0x08 0 []) := by decide
theorem test_i2cWrite : seen (exec (.i2cWrite 0x20 0x12 1) (bench writeOk)) (fun t => (results t, t.history)) =
    some ((0x00, 0, 0), writeTx 0x20 [0x12, 0xAA]) := by decide
theorem test_i2cWrite_zero_length : seen (exec (.i2cWrite 0x68 0x08 0) (bench writeOk)) (fun t => t.history) =
    some (writeTx 0x68 [0x08]) := by decide
theorem test_retries_then_ok : seen (exec (.readPort 0) (bench (deny :: deny :: readOk [0x42])))
    (fun t => (results t, t.history)) =
    some ((0x00, 0x0042, 0), [openFail, .sleep 5, openFail, .sleep 5] ++ readTx 0x20 0x12 1 [0x42]) := by decide
theorem test_retries_exhausted : seen (exec (.readPort 0) (bench [deny, deny, deny]))
    (fun t => (results t, t.history, t.handle)) =
    some ((0x01, 0, 0), [openFail, .sleep 5, openFail, .sleep 5, openFail], .closed) := by decide
theorem test_bind_failure_closes : seen (exec (.readPort 0) (bench [grant [], deny])) (fun t => (results t, t.history)) =
    some ((0x01, 0, 0), [openOk, .busBind 0x20 false, .busClose]) := by decide
theorem test_no_path_fails : seen (exec .enableOutput { bench writeOk with busPath := .noPath })
    (fun t => (t.status, t.rtcCtrl, t.history.length)) = some (0x01, 0x03, 5) := by decide
theorem test_short_data_read : seen (exec (.readMemory 0x08 4) (bench (readOk [0x11, 0x22, 0x33])))
    (fun t => (results t, t.dbuf.toList.take 4)) = some ((0x02, 0, 3), [0x11, 0x22, 0x33, 0xAA]) := by decide
theorem test_short_address_write : seen (exec (.setPinDirection 3 1) (bench [grant [], grant [], deny]))
    (fun t => (results t, t.history)) =
    some ((0x02, 0, 0), [openOk, .busBind 0x20 true, .busWrite [0x00] 0, .busClose]) := by decide
theorem test_short_write_exact_prefix : seen (exec (.setPinDirection 3 1)
      (bench (readOk [0x00] ++ [grant [], grant [], moved 1])))
    (fun t => (results t, t.env.devRegs, t.env.gpioPtr)) = some ((0x02, 0, 1), [], 0x00) := by decide
theorem test_short_write_any_prefix : seen (exec (.setPinDirection 3 1)
      { bench (readOk [0x00] ++ [grant [], grant [], ⟨true, 1, 2, [], false, false, 0⟩]) with
        params := { benchParams with shortWriteEffect := .anyPrefix } })
    (fun t => (results t, t.env.devRegs)) = some ((0x02, 0, 1), [(0x2000, 0x04)]) := by decide

/-! ## GpioExpanderDriver (V4) -/

theorem test_setPinDirection : seen (exec (.setPinDirection 9 0) (bench (readOk [0xFF] ++ writeOk)))
    (fun t => (results t, t.history)) =
    some ((0x00, 0, 0), readTx 0x20 0x01 1 [0xFF] ++ writeTx 0x20 [0x01, 0xFE]) := by decide
theorem test_setPinDirection_invalid : seen (exec (.setPinDirection 17 1) (bench [])) (fun t => (results t, t.history)) =
    some ((0x03, 0, 0), []) := by decide
theorem test_setPinPolarity : seen (exec (.setPinPolarity 2 1) (bench (readOk [0x00] ++ writeOk))) (fun t => t.history) =
    some (readTx 0x20 0x02 1 [0x00] ++ writeTx 0x20 [0x02, 0x02]) := by decide
theorem test_setInterruptOnPin : seen (exec (.setInterruptOnPin 10 1) (bench (readOk [0x00] ++ writeOk)))
    (fun t => t.history) = some (readTx 0x20 0x05 1 [0x00] ++ writeTx 0x20 [0x05, 0x02]) := by decide
theorem test_setPinInterruptDefault : seen (exec (.setPinInterruptDefault 1 1) (bench (readOk [0xFE] ++ writeOk)))
    (fun t => t.history) = some (readTx 0x20 0x06 1 [0xFE] ++ writeTx 0x20 [0x06, 0xFF]) := by decide
theorem test_setPinInterruptType : seen (exec (.setPinInterruptType 16 1) (bench (readOk [0x00] ++ writeOk)))
    (fun t => t.history) = some (readTx 0x20 0x09 1 [0x00] ++ writeTx 0x20 [0x09, 0x80]) := by decide
theorem test_setPinPullup : seen (exec (.setPinPullup 1 1) (bench (readOk [0x00] ++ writeOk))) (fun t => t.history) =
    some (readTx 0x20 0x0C 1 [0x00] ++ writeTx 0x20 [0x0C, 0x01]) := by decide
theorem test_writePin : seen (exec (.writePin 11 1) (bench (readOk [0x80] ++ writeOk))) (fun t => t.history) =
    some (readTx 0x20 0x13 1 [0x80] ++ writeTx 0x20 [0x13, 0x84]) := by decide
theorem test_getPinDirection : seen (exec (.getPinDirection 3) (bench (readOk [0x04]))) (fun t => (results t, t.history)) =
    some ((0x00, 1, 0), readTx 0x20 0x00 1 [0x04]) := by decide
theorem test_getPinPolarity : seen (exec (.getPinPolarity 2) (bench (readOk [0x02]))) (fun t => (results t, t.history)) =
    some ((0x00, 1, 0), readTx 0x20 0x02 1 [0x02]) := by decide
theorem test_getInterruptOnPin : seen (exec (.getInterruptOnPin 10) (bench (readOk [0x02])))
    (fun t => (results t, t.history)) = some ((0x00, 1, 0), readTx 0x20 0x05 1 [0x02]) := by decide
theorem test_getPinInterruptDefault : seen (exec (.getPinInterruptDefault 1) (bench (readOk [0xFE])))
    (fun t => (results t, t.history)) = some ((0x00, 0, 0), readTx 0x20 0x06 1 [0xFE]) := by decide
theorem test_getPinInterruptType : seen (exec (.getPinInterruptType 16) (bench (readOk [0x80])))
    (fun t => (results t, t.history)) = some ((0x00, 1, 0), readTx 0x20 0x09 1 [0x80]) := by decide
theorem test_getPinPullup : seen (exec (.getPinPullup 16) (bench (readOk [0x7F]))) (fun t => (results t, t.history)) =
    some ((0x00, 0, 0), readTx 0x20 0x0D 1 [0x7F]) := by decide
theorem test_readPin : seen (exec (.readPin 12) (bench (readOk [0x08]))) (fun t => (results t, t.history)) =
    some ((0x00, 1, 0), readTx 0x20 0x13 1 [0x08]) := by decide
theorem test_setPortDirection : seen (exec (.setPortDirection 1 0xFF) (bench writeOk)) (fun t => (results t, t.history)) =
    some ((0x00, 0, 0), writeTx 0x20 [0x01, 0xFF]) := by decide
theorem test_setPortPolarity : seen (exec (.setPortPolarity 1 0) (bench writeOk)) (fun t => t.history) =
    some (writeTx 0x20 [0x03, 0x00]) := by decide
theorem test_setInterruptOnPort : seen (exec (.setInterruptOnPort 0 1) (bench writeOk)) (fun t => t.history) =
    some (writeTx 0x20 [0x04, 0x01]) := by decide
theorem test_setInterruptDefaults : seen (exec (.setInterruptDefaults 1 0x80) (bench writeOk)) (fun t => t.history) =
    some (writeTx 0x20 [0x07, 0x80]) := by decide
theorem test_setInterruptType : seen (exec (.setInterruptType 0 0xFF) (bench writeOk)) (fun t => t.history) =
    some (writeTx 0x20 [0x08, 0xFF]) := by decide
theorem test_setPortPullups : seen (exec (.setPortPullups 0 0x0F) (bench writeOk)) (fun t => t.history) =
    some (writeTx 0x20 [0x0C, 0x0F]) := by decide
theorem test_writePort : seen (exec (.writePort 0 0xFF) (bench writeOk)) (fun t => t.history) =
    some (writeTx 0x20 [0x12, 0xFF]) := by decide
theorem test_getPortDirection : seen (exec (.getPortDirection 0) (bench (readOk [0xF0]))) (fun t => (results t, t.history)) =
    some ((0x00, 0x00F0, 0), readTx 0x20 0x00 1 [0xF0]) := by decide
theorem test_getPortDirection_invalid : seen (exec (.getPortDirection 2) (bench [])) (fun t => (results t, t.history)) =
    some ((0x04, 0, 0), []) := by decide
theorem test_getPortPolarity : seen (exec (.getPortPolarity 0) (bench (readOk [1]))) (fun t => t.history) =
    some (readTx 0x20 0x02 1 [1]) := by decide
theorem test_getInterruptOnPort : seen (exec (.getInterruptOnPort 1) (bench (readOk [1]))) (fun t => t.history) =
    some (readTx 0x20 0x05 1 [1]) := by decide
theorem test_getInterruptDefaults : seen (exec (.getInterruptDefaults 0) (bench (readOk [1]))) (fun t => t.history) =
    some (readTx 0x20 0x06 1 [1]) := by decide
theorem test_getInterruptType : seen (exec (.getInterruptType 1) (bench (readOk [1]))) (fun t => t.history) =
    some (readTx 0x20 0x09 1 [1]) := by decide
theorem test_getPortPullups : seen (exec (.getPortPullups 1) (bench (readOk [1]))) (fun t => t.history) =
    some (readTx 0x20 0x0D 1 [1]) := by decide
theorem test_readInterruptStatus : seen (exec (.readInterruptStatus 0) (bench (readOk [0x10])))
    (fun t => (results t, t.history)) = some ((0x00, 0x0010, 0), readTx 0x20 0x0E 1 [0x10]) := by decide
theorem test_readInterruptCapture : seen (exec (.readInterruptCapture 1) (bench (readOk [0x22])))
    (fun t => (results t, t.history, t.env.latchA, t.env.latchB)) =
    some ((0x00, 0x0022, 0), readTx 0x20 0x11 1 [0x22], true, false) := by decide
theorem test_readPort : seen (exec (.readPort 1) (bench (readOk [0xA5]))) (fun t => (results t, t.history)) =
    some ((0x00, 0x00A5, 0), readTx 0x20 0x13 1 [0xA5]) := by decide
theorem test_readOutputLatch : seen (exec (.readOutputLatch 0) (bench (readOk [0x77]))) (fun t => (results t, t.history)) =
    some ((0x00, 0x0077, 0), readTx 0x20 0x14 1 [0x77]) := by decide
theorem test_acknowledgeInterrupts : seen (exec (.acknowledgeInterrupts 0) (bench (readOk [0x22])))
    (fun t => (results t, t.history, t.env.latchA)) = some ((0x00, 0, 0), readTx 0x20 0x10 1 [0x22], false) := by decide
theorem test_initialize_no_reset : seen (exec (.initializeGpio 0x24 0) (bench writeOk))
    (fun t => (results t, t.gpioAddr, t.gpioResetPol, t.history)) =
    some ((0x00, 0, 0), 0x24, false, writeTx 0x24 [0x0A, 0x5C]) := by decide
/-- P2 step 2, all fifteen transactions. -/
theorem test_initialize_reset : seen (exec (.initializeGpio 0x24 1)
      (bench (List.replicate 39 (grant []) ++ readOk [0x11] ++ readOk [0x22]))) (fun t => t.history) =
    some (writeTx 0x24 [0x0A, 0x5C] ++ writeTx 0x24 [0x12, 0x00] ++ writeTx 0x24 [0x13, 0x00] ++
      writeTx 0x24 [0x00, 0xFF] ++ writeTx 0x24 [0x01, 0xFF] ++ writeTx 0x24 [0x0C, 0x00] ++ writeTx 0x24 [0x0D, 0x00] ++
      writeTx 0x24 [0x02, 0x00] ++ writeTx 0x24 [0x03, 0x00] ++ writeTx 0x24 [0x04, 0x00] ++ writeTx 0x24 [0x05, 0x00] ++
      writeTx 0x24 [0x06, 0x00] ++ writeTx 0x24 [0x07, 0x00] ++ readTx 0x24 0x10 1 [0x11] ++
      readTx 0x24 0x11 1 [0x22]) := by decide

/-! ## RtcDriver (S4, S5, S6, V6, V7, V8) -/

def dated (script : List Draw) : State :=
  setDbuf [58, 59, 23, 4, 29, 1, 124, 0] (bench script)

theorem test_setDate : seen (exec .setDate (dated writeOk)) (fun t => (results t, t.history)) =
    some ((0x00, 0, 0), writeTx 0x68 [0x00, 0x58, 0x59, 0x23, 0x04, 0x29, 0x02, 0x24]) := by decide
theorem test_setDate_wraps : seen (exec .setDate (setDbuf [0, 0, 0, 0, 0, 255, 0xE8, 0x07] (bench writeOk)))
    (fun t => t.history) = some (writeTx 0x68 [0x00, 0, 0, 0, 0, 0, 0x00, 0x24]) := by decide
theorem test_readDate : seen (exec .readDate (bench (readOk [0x58, 0x59, 0x23, 0x04, 0x29, 0x02, 0x24])))
    (fun t => (results t, t.dbuf.toList.take 9)) = some ((0x00, 0, 8), [58, 59, 23, 4, 29, 1, 124, 0, 0xAA]) := by decide
theorem test_readDate_wraps : seen (exec .readDate { bench (readOk [0x80, 0, 0x52, 7, 0x31, 0, 0x24]) with century := 0 })
    (fun t => t.dbuf.toList.take 8) = some [80, 0, 52, 7, 31, 0xFF, 0xAC, 0xF8] := by decide
theorem test_readDate_short : seen (exec .readDate (bench (readOk [1, 2, 3, 4, 5])))
    (fun t => (results t, t.dbuf.toList.take 8)) = some ((0x02, 0, 5), List.replicate 8 0xAA) := by decide
theorem test_enableOutput : seen (exec .enableOutput (bench writeOk)) (fun t => (t.rtcCtrl, t.history)) =
    some (0x13, writeTx 0x68 [0x07, 0x13]) := by decide
theorem test_enableOutput_short : seen (exec .enableOutput (bench [grant [], grant [], moved 1]))
    (fun t => (results t, t.rtcCtrl)) = some ((0x02, 0, 1), 0x03) := by decide
theorem test_disableOutput : seen (exec .disableOutput { bench writeOk with rtcCtrl := 0x13 })
    (fun t => (t.rtcCtrl, t.history)) = some (0x03, writeTx 0x68 [0x07, 0x03]) := by decide
theorem test_setFrequency : seen (exec (.setFrequency 2) { bench writeOk with rtcCtrl := 0x13 })
    (fun t => (t.rtcCtrl, t.history)) = some (0x11, writeTx 0x68 [0x07, 0x11]) := by decide
theorem test_setFrequency_codes : seen (exec (.setFrequency 1) (bench writeOk)) (fun t => t.rtcCtrl) = some 0x00 ∧
    seen (exec (.setFrequency 3) (bench writeOk)) (fun t => t.rtcCtrl) = some 0x02 ∧
    seen (exec (.setFrequency 99) (bench writeOk)) (fun t => t.rtcCtrl) = some 0x03 := by decide
theorem test_writeMemory : seen (exec (.writeMemory 0x3B 4) (setDbuf [0xDE, 0xAD, 0xBE, 0xEF] (bench writeOk)))
    (fun t => (results t, t.history)) = some ((0x00, 0, 0), writeTx 0x68 [0x3B, 0xDE, 0xAD, 0xBE, 0xEF]) := by decide
theorem test_writeMemory_range : seen (exec (.writeMemory 0x3C 4) (bench writeOk)) (fun t => (results t, t.history)) =
    some ((0x05, 0, 0), []) := by decide
theorem test_readMemory : seen (exec (.readMemory 0x08 2) (bench (readOk [5, 6])))
    (fun t => (results t, t.history, t.dbuf.toList.take 3)) =
    some ((0x00, 0, 2), readTx 0x68 0x08 2 [5, 6], [5, 6, 0xAA]) := by decide
theorem test_readMemory_last_byte_unreachable : seen (exec (.readMemory 0x3F 1) (bench (readOk [5])))
    (fun t => (results t, t.history)) = some ((0x05, 0, 0), []) := by decide
theorem test_window_bounds :
    inWindow benchParams 0x08 55 = true ∧ inWindow benchParams 0x08 56 = false ∧ inWindow benchParams 0x3F 0 = true ∧
    inWindow benchParams 0x07 1 = false ∧ inWindow benchParams 0xFF 0x01 = false ∧
    inWindow { benchParams with memLowBoundEnforced := false } 0x00 8 = true := by decide
theorem test_setCentury : seen (exec (.setCentury 0x07 0x6C) (bench [])) (fun t => (results t, t.century)) =
    some ((0x00, 0, 0), 1900) := by decide

/-! ## What the source leaves to the device (U9, U13, N5; logs 7, 14) -/

/-- answers whose open values are these. -/
def openValue (irq : Bool) (p : Byte) (d : Draw) : Draw := { d with irqA := irq, pointer := p }
theorem test_pointer_given_inside_the_rtc : seen (exec (.i2cRead 0x68 0x3D 2) (bench (readOk [1, 2] |>.map (openValue false 0x99))))
    (fun t => t.env.rtcPtr) = some 0x3F := by decide
theorem test_pointer_open_past_3F : ∀ p ∈ [0x00#8, 0x40#8, 0x99#8],
    seen (exec (.i2cRead 0x68 0x3D 3) (bench (readOk [1, 2, 3] |>.map (openValue false p)))) (fun t => t.env.rtcPtr) = some p ∧
    seen (exec (.i2cWrite 0x20 0x12 2) (bench (writeOk |>.map (openValue false p)))) (fun t => t.env.gpioPtr) = some p := by
  decide
/-- the latch after a capture read whose address byte did not move: any value. -/
theorem test_failed_capture_read_leaves_any_latch : ∀ b : Bool,
    seen (exec (.acknowledgeInterrupts 0) (bench [grant [], grant [], openValue b 0 deny]))
      (fun t => (t.status, t.env.latchA, t.env.latchB)) = some (0x02, b, true) := by decide
theorem test_unbound_capture_read_keeps_the_latch : seen (exec (.acknowledgeInterrupts 0) (bench [grant [], deny]))
    (fun t => (t.status, t.env.latchA)) = some (0x01, true) := by decide

/-! ## Oracles (R62), steps and reset -/

theorem test_registerBlock_reads_back : seen (exec (.readPort 0)
      { bench (readOk [0x00]) with env := { benchEnv (readOk [0x00]) with
          oracle := .registerBlock, devRegs := [(0x2012, 0x5A)] } }) (fun t => t.rval) = some 0x005A := by decide
theorem test_illegal_word_step : seen (step (State.withFetchWord (bench []) 32 0x200B0101))
    (fun t => (results t, t.history, t.busy, t.host)) = some ((0xFF, 0, 0), [], false, []) := by decide
theorem test_fetched_word_runs : seen (step (State.withFetchWord State.reset 32 0x12090000)) results =
    some (0x00, 0x0100, 0) := by decide
theorem test_host_store : seen (step { bench [] with host := [.storeDbuf 63 0x5A, .writeCmd 0] })
    (fun t => (t.dbuf[63], t.dbuf[62], t.host)) = some (0x5A, 0xAA, [.writeCmd 0]) := by decide
theorem test_reset_move_keeps_devices : seen (step { bench [] with
      host := [.reset], env := { benchEnv [] with devRegs := [(0x6808, 0x42)] } })
    (fun t => (t.busPath, t.env.devRegs)) = some (BusPath.noPath, [(0x6808, 0x42#8)]) := by decide
theorem test_reset_move_restores_block : seen (step { bench [] with
      host := [.reset], gpioAddr := 0x24, rtcCtrl := 0x13, century := 1900 })
    (fun t => (t.gpioAddr, t.rtcCtrl, t.century)) = some (0x20, 0x03, 2000) := by decide
theorem test_bracketed_history : Safety.wellBracketed
    ([openFail, .sleep 5] ++ readTx 0x20 0x00 1 [7] ++ writeTx 0x20 [1, 2]) = true := by decide
theorem test_unbracketed_histories :
    Safety.wellBracketed [openOk, openOk] = false ∧ Safety.wellBracketed [.busWrite [1] 1] = false ∧
    Safety.wellBracketed [openOk, .busBind 1 false, .busWrite [1] 1, .busClose] = false ∧
    Safety.wellBracketed [openOk] = false := by decide

/-! ## Witnesses: for every statement with hypotheses, a state and operands that meet all of them together -/

section Witnesses

open Sys2Proof.Safety Sys2Proof.Claims

theorem witness_DecodeOfEncodeIsTheCommand :
    (Instr.i2cRead 0x7F 0xFF 63).wf = true ∧ (Instr.setBit 0xFF 7 0xFF).wf = true ∧ Instr.setDate.wf = true := by decide
/-- the three clauses: a word on one row; a word that decodes; words that do not. -/
theorem witness_DecodeSelectsExactlyOneTableRow :
    (∃ x ∈ opcodeTable, 0x23120100#32 &&& x.mask = x.bits) ∧ decode 0x23120100#32 = .ok (.readPort 1) ∧
    decode 0x00000000#32 = .error .unknownOpcode ∧ decode 0x10000801#32 = .error .indexAboveSeven := by decide
theorem witness_IllegalWordsEndAtOnce :
    idle (State.withFetchWord (bench []) 32 0x200B0101) ∧
    (State.withFetchWord (bench []) 32 0x200B0101).host = .writeCmd 0x200B0101 :: [] ∧
    decode 0x200B0101#32 = .error .illegalBase := ⟨⟨rfl, rfl⟩, by decide, by decide⟩
theorem witness_IllFormedCommandsAreIllegal : (bench []).handle = .closed ∧ (Instr.testBit 0 8).wf = false ∧
    (Instr.i2cWrite 0x80 0 0).wf = false ∧ (Instr.i2cRead 0 0 64).wf = false ∧ (Instr.initializeGpio 0x80 0).wf = false := by
  decide
theorem witness_StepRunsTheDecodedCommand :
    (State.withFetchWord (bench writeOk) 32 0x22120180).busy = false ∧
    (State.withFetchWord (bench writeOk) 32 0x22120180).host = .writeCmd 0x22120180 :: [] ∧
    decode 0x22120180#32 = .ok (.writePort 1 0x80) := by decide
theorem witness_FetchedWordIsRunNext : decodeTableWord 32 0x22120180 = some (.writePort 1 0x80) := by decide
theorem witness_HostStoresOneMailboxByte : (bench []).busy = false ∧ (bench []).host = [] ∧
    ({ bench [] with host := [.storeDbuf 0 0xFF, .storeDbuf 63 0] } : State).host =
      .storeDbuf 0 0xFF :: [.storeDbuf 63 0] := by decide
theorem witness_ResetOfTheBlockLeavesTheDevices :
    ({ bench [] with host := [.reset] } : State).busy = false ∧
    ({ bench [] with host := [.reset] } : State).host = .reset :: [] := by decide

theorem bench_inv (script : List Draw) : Inv (bench script) :=
  ⟨⟨rfl, rfl⟩, rfl, rfl, Nat.zero_le _, fun _ _ _ _ => rfl, by show 0x20#7 ≠ 0x00#7; decide, List.Pairwise.nil⟩
theorem witness_EveryStepKeepsTheInvariant : ∃ t, Inv (State.withFetchWord (bench writeOk) 32 0x22120180) ∧
    step (State.withFetchWord (bench writeOk) 32 0x22120180) = .next t :=
  ⟨_, ⟨⟨rfl, rfl⟩, (bench_inv writeOk).brackets, (bench_inv writeOk).status, (bench_inv writeOk).rlen,
    (bench_inv writeOk).dormant, (bench_inv writeOk).gpioAddr, (bench_inv writeOk).regs⟩, rfl⟩
theorem witness_EveryStepEndsIdle : idle (bench []) := ⟨rfl, rfl⟩
theorem witness_NoHostMoveWhileBusy : ({ bench [] with busy := true } : State).busy = true := rfl
theorem witness_closed_handle : (bench []).handle = .closed := rfl

/-- no path; and a path with every open refused. -/
theorem witness_RefusedOpensEndInBusUnavailable :
    makesTransaction benchParams (.writeMemory 0x08 55) = true ∧ makesTransaction benchParams (.readPin 16) = true ∧
    makesTransaction benchParams (.readPort 1) = true ∧ makesTransaction benchParams (.initializeGpio 0x7F 1) = true ∧
    makesTransaction benchParams (.i2cRead 0x7F 0 63) = true ∧
    ({ bench [] with busPath := .noPath } : State).busPath = .noPath ∧
    (∀ j ≤ (bench [deny, deny, deny]).params.maxRetries, ((bench [deny, deny, deny]).env.answer j).ok = false) := by decide
theorem witness_BusUnavailableHasTwoCauses :
    (∃ t, exec (.readPort 0) (bench [deny, deny, deny]) = .next t ∧ t.status = 0x01) ∧
    (∃ t, exec (.readPort 0) (bench [grant [], deny]) = .next t ∧ t.status = 0x01) := ⟨⟨_, rfl, by decide⟩, ⟨_, rfl, by decide⟩⟩
theorem witness_ShortTransferReportsTheCount :
    (∃ t, exec (.readPort 0) (bench [grant [], grant [], moved 0]) = .next t ∧ t.status = 0x02) ∧
    (∃ t, exec (.readPort 0) (bench (readOk [])) = .next t ∧ t.status = 0x02) := ⟨⟨_, rfl, by decide⟩, ⟨_, rfl, by decide⟩⟩

theorem bench_read (data rest : List Draw) (d : List Byte) (h : data = readOk d ++ rest) :
    ReadGranted (bench data) 0 0 d.length := by
  subst h
  exact ⟨⟨nofun, Nat.zero_le _, by intro i hi; omega, rfl, rfl⟩, by show 1 ≤ 64; decide, Nat.le_refl _⟩
theorem bench_write (n : Nat) (hn : n ≤ 63) : WriteGranted (bench writeOk) 0 0 n :=
  ⟨⟨by decide, Nat.zero_le _, by intro i hi; omega, rfl, rfl⟩, Nat.succ_le_succ hn⟩
/-- after two refused opens, the last the retries allow. -/
theorem bench_read_retried : ReadGranted (bench (deny :: deny :: readOk [0x42])) 0 2 1 :=
  ⟨⟨by decide, by decide, by decide, by decide, by decide⟩, by decide, by decide⟩

/-- the bench after an `initialize` (R303): its transaction stands in the history. -/
def configured (script : List Draw) : State := { bench script with history := writeTx 0x20 [0x0A, 0x5C] }
theorem configured_expander (script : List Draw) : expanderConfigured (configured script) 0x20 := ⟨[openOk], [], rfl⟩
theorem configured_read (data rest : List Draw) (d : List Byte) (h : data = readOk d ++ rest) :
    ReadGranted (configured data) 0 0 d.length :=
  have g := bench_read data rest d h
  ⟨⟨g.path, g.retries, g.refused, g.opened, g.bound⟩, g.address, g.bytes⟩
theorem configured_write (n : Nat) (hn : n ≤ 63) : WriteGranted (configured writeOk) 0 0 n :=
  have g := bench_write n hn
  ⟨⟨g.path, g.retries, g.refused, g.opened, g.bound⟩, g.moved⟩

theorem witness_I2cReadDeliversTheBytes : (0x7F#8).toNat ≤ 0x7F ∧ (63#8).toNat ≤ 63 ∧
    ReadGranted (bench (readOk (List.replicate 63 0x11#8))) 0 0 (63#8).toNat ∧ ReadGranted (bench (readOk [])) 0 0 (0#8).toNat :=
  ⟨by decide, by decide, bench_read _ [] (List.replicate 63 0x11#8) rfl, bench_read _ [] [] rfl⟩
/-- both commands and the two outcomes of a failure, the second with data and without; the window at its edges. -/
theorem witness_I2cReadFailureDeliversThePartialData :
    (∃ t, exec (.i2cRead 0x7F 0 63) (bench [deny, deny, deny]) = .next t ∧ t.status ≠ 0x00) ∧
    (∃ t, exec (.i2cRead 0x68 0 63) (bench (readOk [1, 2])) = .next t ∧ t.status ≠ 0x00) ∧
    (∃ t, exec (.readMemory 0x08 55) (bench (readOk [1, 2])) = .next t ∧ t.status ≠ 0x00) ∧
    (∃ t, exec (.readMemory 0x3F 0) (bench [grant [], grant [], deny]) = .next t ∧ t.status ≠ 0x00) ∧
    (∃ t, exec (.readMemory 0x08 1) (bench [deny, deny, deny]) = .next t ∧ t.status ≠ 0x00) :=
  ⟨⟨_, rfl, by decide⟩, ⟨_, rfl, by decide⟩, ⟨_, rfl, by decide⟩, ⟨_, rfl, by decide⟩, ⟨_, rfl, by decide⟩⟩
theorem witness_I2cWriteSendsTheMailbox : (0x7F#8).toNat ≤ 0x7F ∧
    WriteGranted (bench writeOk) 0 0 (63#8).toNat ∧ WriteGranted (bench writeOk) 0 0 (0#8).toNat ∧
    (0x3F#8).toNat + (1#8).toNat ≤ 0x40 ∧ (0x01#8).toNat + (63#8).toNat ≤ 0x40 :=
  ⟨by decide, bench_write 63 (by decide), bench_write 0 (by decide), by decide, by decide⟩
/-- the transfers of log 14 are the first past each bound: 0x40 of the RTC, a second byte to the expander. -/
theorem witness_WriteEffect_exception :
    deviceAt (bench []).env.board 0x68 = some .rtc ∧ 0x40 < (0x3F#8).toNat + 2 ∧ ¬ 0x40 < (0x3F#8).toNat + 1 ∧
    deviceAt (bench []).env.board 0x20 = some .gpio ∧ (bench []).env.oracle ≠ .registerBlock := by decide
theorem witness_I2cWriteFailureReportsTheCount :
    (∃ t, exec (.i2cWrite 0x20 0 63) (bench [deny, deny, deny]) = .next t ∧ t.status ≠ 0x00) ∧
    (∃ t, exec (.i2cWrite 0x20 0 63) (bench [grant [], grant [], moved 63]) = .next t ∧ t.status ≠ 0x00) ∧
    (∃ t, exec (.i2cWrite 0x68 0 63) (bench [grant [], grant [], moved 0]) = .next t ∧ t.status ≠ 0x00) ∧
    (bench []).params.shortWriteEffect = .exactPrefix :=
  ⟨⟨_, rfl, by decide⟩, ⟨_, rfl, by decide⟩, ⟨_, rfl, by decide⟩, rfl⟩
theorem witness_BitCommandsReturnTheBits : (7#8).toNat < 8 ∧ (0#8).toNat < 8 ∧ 8 ≤ (8#8).toNat ∧ 8 ≤ (255#8).toNat := by
  decide
/-- each clause at the ends of its range. -/
theorem witness_ResolvePinOfEveryPin :
    (1 ≤ (1#8).toNat ∧ (1#8).toNat ≤ 8) ∧ (1 ≤ (8#8).toNat ∧ (8#8).toNat ≤ 8) ∧ (9 ≤ (9#8).toNat ∧ (9#8).toNat ≤ 16) ∧
    (9 ≤ (16#8).toNat ∧ (16#8).toNat ≤ 16) ∧ (0#8).toNat = 0 ∧ 17 ≤ (17#8).toNat ∧ 17 ≤ (255#8).toNat := by decide
theorem witness_ResolvePortOfEveryTag : (0 : Byte) = 0 ∧ (1 : Byte) = 1 ∧ 2 ≤ (2#8).toNat ∧ 2 ≤ (255#8).toNat := by decide
theorem witness_CodecRoundTrips : (0x99#8).toNat / 16 ≤ 9 ∧ (0x99#8).toNat % 16 ≤ 9 := by decide
theorem witness_PinAt_bounds : PinAt 0x12 1 0x12 0 ∧ PinAt 0x12 8 0x12 7 ∧ PinAt 0x12 9 0x13 0 ∧ PinAt 0x12 16 0x13 7 := by
  unfold PinAt; decide
theorem witness_PortAt : PortAt 0x14 0 0x14 ∧ PortAt 0x14 1 0x15 := by unfold PortAt; decide
theorem witness_PinSettersReadModifyWrite : (0x12, .writePin) ∈ pinSetters ∧ PinAt 0x12 16 0x13 7 ∧
    ReadGranted (configured (readOk [0x80] ++ writeOk)) 0 0 1 ∧
    WriteGranted (configured (readOk [0x80] ++ writeOk)) (0 + 4) 0 1 ∧
    (deviceAt (configured (readOk [0x80] ++ writeOk)).env.board 0x20).isSome = true ∧
    expanderConfigured (configured (readOk [0x80] ++ writeOk)) 0x20 :=
  ⟨by simp [pinSetters], witness_PinAt_bounds.2.2.2, configured_read _ writeOk [0x80] rfl,
    ⟨⟨nofun, Nat.zero_le _, by intro i hi; omega, rfl, rfl⟩, by decide⟩, by decide, configured_expander _⟩
theorem witness_FailedReadIssuesNoWrite : (0x00, .setPinDirection) ∈ pinSetters ∧ PinAt 0x00 1 0x00 0 ∧
    ∃ e s1, memRead (bench [grant [], deny]).gpioAddr 0x00 1 (beginCommand (bench [grant [], deny])) = .err e s1 :=
  ⟨by simp [pinSetters], by unfold PinAt; decide, .busUnavailable, _, rfl⟩
theorem witness_PinGettersReturnTheBit : (0x0C, .getPinPullup) ∈ pinGetters ∧ PinAt 0x0C 9 0x0D 0 ∧
    ReadGranted (bench (deny :: deny :: readOk [0x42])) 0 2 1 :=
  ⟨by simp [pinGetters], by unfold PinAt; decide, bench_read_retried⟩
theorem witness_PortWritersWriteTheByte : (0x06, .setInterruptDefaults) ∈ portWriters ∧ PortAt 0x06 1 0x07 ∧
    WriteGranted (configured writeOk) 0 0 1 ∧ (deviceAt (configured writeOk).env.board 0x20).isSome = true ∧
    expanderConfigured (configured writeOk) 0x20 :=
  ⟨by simp [portWriters], by unfold PortAt; decide, configured_write 1 (by decide), by decide, configured_expander _⟩
theorem witness_PortReadersReturnTheByte : (0x14, .readOutputLatch) ∈ portReaders ∧ PortAt 0x14 1 0x15 ∧
    ReadGranted (bench (deny :: deny :: readOk [0x42])) 0 2 1 :=
  ⟨by simp [portReaders], witness_PortAt.2, bench_read_retried⟩
theorem witness_AcknowledgeReadsTheCaptureRegister : PortAt 0x10 0 0x10 ∧ PortAt 0x10 1 0x11 ∧
    ReadGranted (bench (readOk [0x22])) 0 0 1 := ⟨by unfold PortAt; decide, by unfold PortAt; decide, bench_read _ [] [0x22] rfl⟩
theorem witness_CaptureReadClearsTheLatch : (0#8).toNat ≤ 1 ∧ (1#8).toNat ≤ 1 ∧
    deviceAt (configured []).env.board (configured []).gpioAddr = some .gpio ∧
    expanderConfigured (configured (readOk [0x22])) 0x20 ∧ ReadGranted (configured (readOk [0x22])) 0 0 1 :=
  ⟨by decide, by decide, by decide, configured_expander _, configured_read _ [] [0x22] rfl⟩
/-- an `i2cRead` of one byte and of the most. -/
theorem witness_CaptureReadClearsTheLatch_i2cRead : (0x20#8).toNat ≤ 0x7F ∧ 1 ≤ (1#8).toNat ∧ (63#8).toNat ≤ 63 ∧
    deviceAt (configured []).env.board ((0x20#8).setWidth 7) = some .gpio ∧
    expanderConfigured (configured (readOk (List.replicate 63 0x11#8))) ((0x20#8).setWidth 7) ∧
    ReadGranted (configured (readOk [0x22])) 0 0 (1#8).toNat ∧
    ReadGranted (configured (readOk (List.replicate 63 0x11#8))) 0 0 (63#8).toNat :=
  ⟨by decide, by decide, by decide, by decide, configured_expander _, configured_read _ [] [0x22] rfl,
    configured_read _ [] (List.replicate 63 0x11#8) rfl⟩
theorem witness_InitializeWithoutResetWritesOneRegister : (0x7F#8).toNat ≤ 0x7F ∧ WriteGranted (bench writeOk) 0 0 1 :=
  ⟨by decide, bench_write 1 (by decide)⟩
/-- answers that grant everything and offer one byte each. -/
def allGranted : List Draw := List.replicate 47 (grant [0x11])
theorem witness_InitializeWithResetMakesFifteenTransactions : (0x24#8).toNat ≤ 0x7F ∧ (1 : Byte) ≠ 0 ∧
    (∀ j < 13, WriteGranted (bench allGranted) (3 * j) 0 1) ∧ ReadGranted (bench allGranted) 39 0 1 ∧
    ReadGranted (bench allGranted) 43 0 1 := by
  have ans : ∀ k < 47, (bench allGranted).env.answer k = grant [0x11] := by decide
  refine ⟨by decide, by decide, fun j hj => ⟨⟨by decide, Nat.zero_le _, by intro i hi; omega, ?_, ?_⟩, ?_⟩,
    ⟨⟨by decide, Nat.zero_le _, by intro i hi; omega, ?_, ?_⟩, ?_, ?_⟩,
    ⟨⟨by decide, Nat.zero_le _, by intro i hi; omega, ?_, ?_⟩, ?_, ?_⟩⟩ <;> rw [ans _ (by omega)] <;> decide
/-- the reset path of `CaptureReadClearsTheLatch`, the address kept and given, no interrupt during the last read. -/
theorem witness_CaptureReadClearsTheLatch_initialize :
    deviceAt (bench allGranted).env.board (addressAfterInit (bench allGranted) 0) = some .gpio ∧
    deviceAt (bench allGranted).env.board (addressAfterInit (bench allGranted) 0x20) = some .gpio ∧
    ∀ j < 4, ((bench allGranted).env.answer (43 + j)).irqA = false := by decide
/-- the three outcomes: all steps done; a failed bind and a short transfer in the middle. -/
theorem witness_InitializeStopsAtTheFirstFailedStep :
    (∃ t, exec (.initializeGpio 0x24 1) (bench allGranted) = .next t ∧ t.status = 0x00) ∧
    (∃ t, exec (.initializeGpio 0x00 1) (bench (writeOk ++ [grant [], deny])) = .next t ∧ t.status = 0x01) ∧
    (∃ t, exec (.initializeGpio 0x7F 1) (bench (writeOk ++ [grant [], grant [], moved 1])) = .next t ∧ t.status = 0x02) :=
  ⟨⟨_, rfl, by decide⟩, ⟨_, rfl, by decide⟩, ⟨_, rfl, by decide⟩⟩
theorem witness_SetDateWritesSevenRegisters : WriteGranted (bench writeOk) 0 0 7 := bench_write 7 (by decide)
theorem witness_ReadDateDecodesSevenRegisters :
    ReadGranted (bench (readOk [0x58, 0x59, 0x23, 0x04, 0x29, 0x02, 0x24])) 0 0 7 :=
  bench_read _ [] [0x58, 0x59, 0x23, 0x04, 0x29, 0x02, 0x24] rfl
theorem witness_FailedCalendarCommandsLeaveDbuf :
    (∃ t, exec .setDate (bench [grant [], grant [], moved 7]) = .next t ∧ t.status ≠ 0x00) ∧
    (∃ t, exec .readDate (bench (readOk [1, 2, 3, 4, 5, 6])) = .next t ∧ t.status ≠ 0x00) ∧
    (∃ t, exec .readDate (bench [deny, deny, deny]) = .next t ∧ t.status ≠ 0x00) :=
  ⟨⟨_, rfl, by decide⟩, ⟨_, rfl, by decide⟩, ⟨_, rfl, by decide⟩⟩
/-- R238's own example: 0x13 with code 2 gives 0x11. -/
theorem witness_OutputCommandsWriteTheControlByte :
    controlByte benchParams 0x03 .enableOutput = some 0x13 ∧ controlByte benchParams 0x13 .disableOutput = some 0x03 ∧
    controlByte benchParams 0x13 (.setFrequency 2) = some 0x11 ∧ WriteGranted (bench writeOk) 0 0 1 :=
  ⟨by decide, by decide, by decide, bench_write 1 (by decide)⟩
theorem witness_FailedControlWriteKeepsTheShadow :
    controlByte benchParams (bench []).rtcCtrl .enableOutput = some 0x13 ∧
    ∃ t, exec .enableOutput (bench [grant [], grant [], moved 1]) = .next t ∧ t.status ≠ 0x00 := ⟨by decide, _, rfl, by decide⟩
theorem witness_FrequencyTable : benchParams.rs0Bit ≠ benchParams.rs1Bit := by decide
/-- both ways out of the window, at its edges. -/
theorem witness_MemoryRangeCheck :
    ¬ ((0x08#8).toNat + (56#8).toNat ≤ 0x3F ∧ (benchParams.memLowBoundEnforced = true → 0x08 ≤ (0x08#8).toNat)) ∧
    ¬ ((0x07#8).toNat + (1#8).toNat ≤ 0x3F ∧ (benchParams.memLowBoundEnforced = true → 0x08 ≤ (0x07#8).toNat)) := by decide
theorem witness_WriteMemorySendsTheMailbox : (0x08#8).toNat + (55#8).toNat ≤ 0x3F ∧
    (benchParams.memLowBoundEnforced = true → 0x08 ≤ (0x08#8).toNat) ∧ WriteGranted (bench writeOk) 0 0 (55#8).toNat ∧
    (0x3F#8).toNat + (0#8).toNat ≤ 0x3F ∧ WriteGranted (bench writeOk) 0 0 (0#8).toNat :=
  ⟨by decide, by decide, bench_write 55 (by decide), by decide, bench_write 0 (by decide)⟩
theorem witness_ReadMemoryDeliversTheBytes : (0x08#8).toNat + (55#8).toNat ≤ 0x3F ∧
    (benchParams.memLowBoundEnforced = true → 0x08 ≤ (0x08#8).toNat) ∧
    ReadGranted (bench (readOk (List.replicate 55 0x11#8))) 0 0 (55#8).toNat :=
  ⟨by decide, by decide, bench_read _ [] (List.replicate 55 0x11#8) rfl⟩

/-- the bench under an oracle. -/
def oracleBench (o : Oracle) (script : List Draw) : State :=
  { bench script with env := { benchEnv script with oracle := o } }

/-- both oracles that keep the window. -/
theorem witness_MemoryWindowRoundTrip : ∀ o ∈ [Oracle.perRegister, .registerBlock],
    (o = .registerBlock ∨ (o = .perRegister ∧ benchParams.memLowBoundEnforced = true)) ∧
    seen (exec (.writeMemory 0x08 2) (oracleBench o (writeOk ++ readOk [0, 0]))) (fun t =>
      (t.status, seen (exec (.readMemory 0x08 2) { t with dbuf := Vector.replicate 64 0#8 }) fun v => v.status)) =
      some (0x00, some 0x00) := by decide
theorem witness_CalendarRoundTrip :
    let s := setDbuf [59, 59, 23, 6, 31, 11, 124, 0] (oracleBench .registerBlock (writeOk ++ readOk (List.replicate 7 0#8)))
    s.handle = .closed ∧ s.env.oracle = .registerBlock ∧ s.dbuf[0].toNat ≤ 59 ∧ s.dbuf[1].toNat ≤ 59 ∧
    s.dbuf[2].toNat ≤ 23 ∧ s.dbuf[3].toNat ≤ 6 ∧ 1 ≤ s.dbuf[4].toNat ∧ s.dbuf[4].toNat ≤ 31 ∧ s.dbuf[5].toNat ≤ 11 ∧
    seen (exec .setDate s) (fun t =>
      (t.status, seen (exec .readDate { t with dbuf := Vector.replicate 64 0#8 }) fun v => v.status)) =
      some (0x00, some 0x00) := by decide
theorem witness_ShadowStaysEqualToTheDevice :
    let s := { bench writeOk with env := { benchEnv writeOk with devRegs := [(0x6807, 0x03)] } }
    s.handle = .closed ∧ s.params.shortWriteEffect = .exactPrefix ∧ s.params.memLowBoundEnforced = true ∧
    s.gpioAddr ≠ 0x68 ∧ bypassesShadow .enableOutput = false ∧ shadowAgrees s ∧ ∃ t, exec .enableOutput s = .next t :=
  ⟨by decide, by decide, by decide, by decide, by decide, by unfold shadowAgrees; decide, _, rfl⟩
/-- each kind of command that may change a register does. -/
theorem witness_RegistersOnlyTheirCommandsWrite :
    seen (exec (.busSetup 7) (bench [])) (fun t => decide (t.busPath ≠ (bench []).busPath)) = some true ∧
    seen (exec (.initializeGpio 0x24 0) (bench writeOk)) (fun t => decide (t.gpioAddr ≠ (bench []).gpioAddr)) = some true ∧
    seen (exec .enableOutput (bench writeOk)) (fun t => decide (t.rtcCtrl ≠ (bench []).rtcCtrl)) = some true ∧
    seen (exec (.setCentury 0 0) (bench [])) (fun t => decide (t.century ≠ (bench []).century)) = some true ∧
    seen (exec (.readMemory 8 1) (bench (readOk [1]))) (fun t => decide (t.dbuf ≠ (bench []).dbuf)) = some true := by decide
theorem witness_NoDriverCommandReadsTheControlRegister : (bench []).gpioAddr ≠ 0x68 ∧
    (bench []).params.memLowBoundEnforced = true ∧
    (∃ t evs, exec .readDate (bench (readOk [1, 2, 3, 4, 5, 6, 7])) = .next t ∧
      t.history = (bench (readOk [1, 2, 3, 4, 5, 6, 7])).history ++ evs) ∧
    (∃ j < 1, regKey 0x68 ((0x07#8).toNat + j) = regKey 0x68 7) ∧
    (∃ j < 8, regKey 0x68 ((0x00#8).toNat + j) = regKey 0x68 7) ∧
    (∃ j < 9, regKey 0x68 ((0xFF#8).toNat + j) = regKey 0x68 7) :=
  ⟨by decide, by decide, ⟨_, readTx 0x68 0x00 7 [1, 2, 3, 4, 5, 6, 7], rfl, by decide⟩, by decide, by decide, by decide⟩
theorem witness_WriteTransferStoresConsecutively :
    let s := { oracleBench .registerBlock [moved 2] with handle := .bound 0x20 }
    s.handle = .bound 0x20 ∧ s.env.oracle = .registerBlock ∧ s.params.shortWriteEffect = .exactPrefix ∧
    (deviceAt s.env.board 0x20).isSome = true ∧ (busWrite [0xFF, 1, 2] s).1 = 2 := by decide

end Witnesses

end Sys2Proof.Tests
end

/-! ## Scope: a legal CMD write runs one whole command (00_scope.md R9, 10_state.md R33) -/

section
namespace Sys2Proof.Machine

/-- R317: a host write of CMD takes the move, latches the word with BUSY 1, and runs the port. -/
theorem step_of_writeCmd {s : State} {w : Word} {rest : List HostMove} (hbusy : s.busy = false)
    (hhost : s.host = .writeCmd w :: rest) : step s = runPort (acceptCommand w (takeMove rest s)) := by
  simp only [step, hbusy, hhost]

/-- R33: the port runs the command that the word in CMD encodes. -/
theorem runPort_of_decode_ok {s : State} {i : Instr} (hdecode : decode s.cmd = .ok i) : runPort s = exec i s := by
  simp only [runPort, hdecode]

/-- Settles O6: the step runs the port on the accepted word, and the port runs what the word decodes to. -/
theorem stepRunsTheDecodedCommand : Obligations.StepRunsTheDecodedCommand := by
  intro s w rest i hbusy hhost hdecode
  calc step s
    _ = runPort (acceptCommand w (takeMove rest s)) := step_of_writeCmd hbusy hhost
    _ = exec i (acceptCommand w (takeMove rest s)) := runPort_of_decode_ok hdecode

end Sys2Proof.Machine
end

/-! ## Transactions with one slave

What a single transaction leaves, whatever the bus answers, and what any number of transactions with one slave leave. -/

section
namespace Sys2Proof.Machine
open Sys2Proof.Safety

theorem regsAfterWrite_nil (e : Env) (a : SlaveAddr) : regsAfterWrite e a [] = e.devRegs := by
  unfold regsAfterWrite deviceTake
  split <;> simp_all

theorem regsAfterRead_nil (e : Env) (a : SlaveAddr) (reg : Byte) : regsAfterRead e a reg [] = e.devRegs := by
  unfold regsAfterRead
  split <;> rfl

theorem regsAfterRead_other_slave (e : Env) (a : SlaveAddr) (reg : Byte) (data : List Byte) {x : Nat}
    (hx : x / 256 ≠ a.toNat) : (regsAfterRead e a reg data).read x = e.devRegs.read x :=
  regsAfterRead_others e a reg data x fun _ _ h => hx (by rw [h, regKey_div])

@[simp] theorem readReturned_nil (e : Env) (a : SlaveAddr) (reg : Byte) (n : Nat) : readReturned e a reg n [] = [] :=
  List.eq_nil_of_length_eq_zero (readReturned_length ..)

/-- A read transaction of any outcome: the known registers are those after a read of at most `n` bytes (R136). -/
theorem memRead_state {a : SlaveAddr} {reg : Byte} {n : Nat} {s : State} (hs : s.handle = .closed) :
    ∃ evs raw, Transacted s (memRead a reg n s).state evs ∧ raw.length ≤ n ∧
      (memRead a reg n s).state.env.devRegs = regsAfterRead s.env a reg (readReturned s.env a reg n raw) := by
  have nothing {t : State} (hd : t.env.devRegs = s.env.devRegs) :
      ([] : List Byte).length ≤ n ∧ t.env.devRegs = regsAfterRead s.env a reg (readReturned s.env a reg n []) := by
    simp [hd, regsAfterRead_nil]
  rcases memRead_cases (slave := a) (reg := reg) (n := n) hs with ⟨t, h, ht, hd⟩ | ⟨r, _, t, h, ht, hd⟩ |
    ⟨r, _, t, h, ht, hd⟩ | ⟨r, _, t, data, hl, h, ht, hd, raw, rfl⟩ | ⟨r, _, t, data, hl, h, ht, hd, raw, rfl⟩ <;> rw [h]
  · exact ⟨_, [], ht, nothing hd⟩
  · exact ⟨_, [], ht, nothing hd⟩
  · exact ⟨_, [], ht, nothing hd⟩
  · exact ⟨_, raw, ht, by simpa only [readReturned_length] using hl.le, hd⟩
  · exact ⟨_, raw, ht, by simpa only [readReturned_length] using hl.le, hd⟩

/-- A write transaction of any outcome: the slave has taken some first part of the buffer (R137). -/
theorem memWrite_state {a : SlaveAddr} {reg : Byte} {v : List Byte} {s : State} (hs : s.handle = .closed) :
    ∃ evs j, Transacted s (memWrite a reg v s).state evs ∧
      (memWrite a reg v s).state.env.devRegs = regsAfterWrite s.env a ((reg :: v).take j) := by
  rcases memWrite_cases (slave := a) (reg := reg) (v := v) hs with ⟨t, h, ht, hd⟩ | ⟨r, _, t, h, ht, hd⟩ |
    ⟨r, _, t, k, _, j, _, h, ht, _, hd⟩ | ⟨r, _, t, h, ht, hd⟩ <;> rw [h]
  · exact ⟨_, 0, ht, by rw [List.take_zero, regsAfterWrite_nil]; exact hd⟩
  · exact ⟨_, 0, ht, by rw [List.take_zero, regsAfterWrite_nil]; exact hd⟩
  · exact ⟨_, j, ht, hd⟩
  · exact ⟨_, (reg :: v).length, ht, by rw [List.take_length]; exact hd⟩

/-- A read that succeeded returned as many bytes as were asked for. -/
theorem memRead_ok_length {a : SlaveAddr} {reg : Byte} {n : Nat} {s t : State} {data : List Byte}
    (hs : s.handle = .closed) (h : memRead a reg n s = .ok data t) : data.length = n := by
  rcases memRead_cases (slave := a) (reg := reg) (n := n) hs with ⟨t, h', _⟩ | ⟨r, _, t, h', _⟩ | ⟨r, _, t, h', _⟩ |
    ⟨r, _, t, data, _, h', _⟩ | ⟨r, _, t, data, hl, h', _⟩ <;> rw [h] at h' <;> cases h'
  exact hl

/-- A read keeps every byte a device register is known to hold (R62). -/
theorem memRead_known {a : SlaveAddr} {reg : Byte} {n : Nat} {s : State} (hs : s.handle = .closed) (hn : n ≤ 63) {x : Nat}
    {b : Byte} (hb : s.env.devRegs.read x = some b) : (memRead a reg n s).state.env.devRegs.read x = some b := by
  obtain ⟨_, raw, _, hl, hd⟩ := memRead_state (a := a) (reg := reg) (n := n) hs
  rw [hd]
  exact regsAfterRead_known _ _ _ _ _ (by omega) _ _ hb

/-- From `s` to `t` there were only transactions with the slave `a`, each of any outcome. -/
structure Talked (a : SlaveAddr) (s t : State) : Prop where
  moved  : ∃ evs, Moved s t evs
  handle : t.handle = .closed
  wf     : s.env.devRegs.wf → t.env.devRegs.wf
  others : ∀ x, x / 256 ≠ a.toNat → t.env.devRegs.read x = s.env.devRegs.read x

theorem Talked.refl {a : SlaveAddr} {s : State} (hs : s.handle = .closed) : Talked a s s :=
  ⟨⟨[], .refl s⟩, hs, id, fun _ _ => rfl⟩

theorem Talked.trans {a : SlaveAddr} {s t u : State} (h : Talked a s t) (h' : Talked a t u) : Talked a s u := by
  obtain ⟨_, hm⟩ := h.moved
  obtain ⟨_, hm'⟩ := h'.moved
  exact ⟨⟨_, hm.trans hm'⟩, h'.handle, h'.wf ∘ h.wf, fun x hx => (h'.others x hx).trans (h.others x hx)⟩

theorem Talked.gpioAddr {a : SlaveAddr} {s t : State} (h : Talked a s t) : t.gpioAddr = s.gpioAddr := by
  obtain ⟨_, hm⟩ := h.moved
  exact hm.gpioAddr

/-- A piece that talks to `a`, then, after a success, another one. -/
theorem Talked.andThen {α β : Type} {a : SlaveAddr} {s : State} {r : Res α} {f : α → State → Res β}
    (h : Talked a s r.state) (hf : ∀ x t, Talked a s t → Talked a t (f x t).state) : Talked a s (r.andThen f).state := by
  cases r with
  | ok x t => exact Talked.trans (t := t) h (hf x t h)
  | err g t => exact h

theorem memRead_talked {a : SlaveAddr} {reg : Byte} {n : Nat} {s : State} (hs : s.handle = .closed) :
    Talked a s (memRead a reg n s).state := by
  obtain ⟨_, raw, ht, _, hd⟩ := memRead_state (a := a) (reg := reg) (n := n) hs
  refine ⟨⟨_, ht.moved⟩, ht.handle, memRead_wf hs, fun x hx => ?_⟩
  rw [hd, regsAfterRead_other_slave _ _ _ _ hx]

theorem memWrite_talked {a : SlaveAddr} {reg : Byte} {v : List Byte} {s : State} (hs : s.handle = .closed) :
    Talked a s (memWrite a reg v s).state := by
  obtain ⟨_, j, ht, hd⟩ := memWrite_state (a := a) (reg := reg) (v := v) hs
  refine ⟨⟨_, ht.moved⟩, ht.handle, memWrite_wf hs, fun x hx => ?_⟩
  rw [hd, regsAfterWrite_other_slave _ _ _ hx]

/-! ### The driver templates talk to the expander only (R170 to R174, R208, R209) -/

theorem gpioRead_talked {reg : Byte} {s : State} (hs : s.handle = .closed) :
    Talked s.gpioAddr s (gpioRead reg s).state :=
  (memRead_talked hs).andThen fun _ _ h => .refl h.handle

theorem gpioWrite_talked {a : SlaveAddr} {reg v : Byte} {s : State} (hs : s.handle = .closed) (ha : s.gpioAddr = a) :
    Talked a s (gpioWrite reg v s).state :=
  ha ▸ memWrite_talked hs

theorem pinSet_talked {base pin value : Byte} {s : State} (hs : s.handle = .closed) :
    Talked s.gpioAddr s (pinSet base pin value s).state := by
  unfold pinSet
  split
  · exact .refl hs
  · exact (gpioRead_talked hs).andThen fun _ _ h => gpioWrite_talked h.handle h.gpioAddr

theorem portWrite_talked {base port value : Byte} {s : State} (hs : s.handle = .closed) :
    Talked s.gpioAddr s (portWrite base port value s).state := by
  unfold portWrite
  split
  · exact .refl hs
  · exact gpioWrite_talked hs rfl

theorem gpioWrites_talked {a : SlaveAddr} (ws : List (Byte × Byte)) : ∀ {s : State}, s.handle = .closed →
    s.gpioAddr = a → Talked a s (gpioWrites ws s).state := by
  induction ws with
  | nil => intro s hs _; exact .refl hs
  | cons w ws ih =>
    intro s hs ha
    exact (gpioWrite_talked hs ha).andThen fun _ _ h => ih h.handle (h.gpioAddr.trans ha)

theorem gpioAcknowledge_talked {a : SlaveAddr} (regs : List Byte) : ∀ {s : State}, s.handle = .closed →
    s.gpioAddr = a → Talked a s (gpioAcknowledge regs s).state := by
  induction regs with
  | nil => intro s hs _; exact .refl hs
  | cons reg regs ih =>
    intro s hs ha
    subst ha
    exact (gpioRead_talked hs).andThen fun _ _ h => ih h.handle h.gpioAddr

theorem initSteps_talked {flag : Bool} {s : State} (hs : s.handle = .closed) :
    Talked s.gpioAddr s (initSteps flag s).state := by
  refine (gpioWrite_talked hs rfl).andThen fun _ t h => ?_
  split
  · exact (gpioWrites_talked _ h.handle h.gpioAddr).andThen fun _ _ h' =>
      gpioAcknowledge_talked _ h'.handle (h'.gpioAddr.trans h.gpioAddr)
  · exact .refl h.handle

end Sys2Proof.Machine
end

/-! ## The body of every command

`exec` gives its fifty commands bodies of few shapes. `exec_body` says which; what every command keeps is then proved
once per shape. -/

section
namespace Sys2Proof.Machine
open Sys2Proof.Safety Sys2Proof.Claims

/-- The bodies `exec` gives a command, by shape. A shape that changes no register of the block but the result registers
may belong to any command. -/
inductive BodyOf : Instr → (State → Res Unit) → Prop
  | value {i : Instr} (v : Half) : BodyOf i (returnValue v)
  | rejected {i : Instr} (f : Failure) : BodyOf i (.err f)
  | path (p : Byte) : BodyOf (.busSetup p) fun s => .ok () { s with busPath := .path p }
  | century (high low : Byte) :
    BodyOf (.setCentury high low) fun s => .ok () { s with century := wideOperand high low }
  | rawRead {slave reg len : Byte} {a : SlaveAddr} {n : Nat} (ha : slaveOperand slave = some a)
    (hn : lenOperand len = some n) : BodyOf (.i2cRead slave reg len) fun s => deliver (memRead a reg n s)
  | rawWrite {slave reg len : Byte} {a : SlaveAddr} {n : Nat} (ha : slaveOperand slave = some a)
    (hn : lenOperand len = some n) : BodyOf (.i2cWrite slave reg len) fun s => memWrite a reg (dbufPrefix n s) s
  | pinSet {i : Instr} (base pin value : Byte) : BodyOf i (pinSet base pin value)
  | pinGet {i : Instr} (base pin : Byte) : BodyOf i (pinGet base pin)
  | portWrite {i : Instr} (base port value : Byte) : BodyOf i (portWrite base port value)
  | portRead {i : Instr} (base port : Byte) : BodyOf i (portRead base port)
  | acknowledge {i : Instr} (regs : List Byte) : BodyOf i (gpioAcknowledge regs)
  | initializeGpio {address flag : Byte} {a : SlaveAddr} (ha : slaveOperand address = some a) :
    BodyOf (.initializeGpio address flag) fun s => initSteps (boolOperand flag) (latchInit a (boolOperand flag) s)
  | setDate : BodyOf .setDate fun s => memWrite Config.rtcAddr RtcReg.seconds.addr (calendarToWire s.dbuf) s
  | readDate : BodyOf .readDate fun s =>
    (memRead Config.rtcAddr RtcReg.seconds.addr 7 s).andThen fun wire u =>
      .ok () (setRlen 8 (setDbuf (wireToCalendar u.century wire) u))
  | control {i : Instr} {new : Params → Byte → Byte} (hnew : ∀ p shadow, controlByte p shadow i = some (new p shadow)) :
    BodyOf i fun s => writeControl (new s.params s.rtcCtrl) s
  | writeMemory (address length : Byte) : BodyOf (.writeMemory address length) fun s =>
    if inWindow s.params address length then memWrite Config.rtcAddr address (dbufPrefix length.toNat s) s
    else .err .memoryRangeError s
  | readMemory (address length : Byte) : BodyOf (.readMemory address length) fun s =>
    if inWindow s.params address length then deliver (memRead Config.rtcAddr address length.toNat s)
    else .err .memoryRangeError s

/-- R238's table, the model's way and the statements' way. -/
theorem controlByte_setFrequency (p : Params) (shadow code : Byte) :
    controlByte p shadow (.setFrequency code) = some (frequencyControl p shadow code) := by
  have table (c : Byte) : frequencyBits c = (decide (c ≠ 1 ∧ c ≠ 3), decide (c ≠ 1 ∧ c ≠ 2)) := by
    unfold frequencyBits
    split
    · next h => subst h; decide
    · split
      · next h => subst h; decide
      · split
        · next h => subst h; decide
        · next h1 h2 h3 => simp_all
  simp only [controlByte, frequencyControl, table]

/-- Every command is the run of one body, whatever state it begins in. -/
theorem exec_body (i : Instr) : ∃ body, BodyOf i body ∧ ∀ s, exec i s = .next (runCommand body s) := by
  have illegal {i : Instr} : BodyOf i (.err .illegalCommand) := .rejected _
  cases i
  case busSetup p => exact ⟨_, .path p, fun _ => rfl⟩
  case i2cRead slave reg len =>
    rcases ha : slaveOperand slave with _ | a
    · exact ⟨_, illegal, fun s => by simp only [exec, execI2cRead, ha]; rfl⟩
    rcases hn : lenOperand len with _ | n
    · exact ⟨_, illegal, fun s => by simp only [exec, execI2cRead, ha, hn]; rfl⟩
    · exact ⟨_, .rawRead ha hn, fun s => by simp only [exec, execI2cRead, ha, hn]⟩
  case i2cWrite slave reg len =>
    rcases ha : slaveOperand slave with _ | a
    · exact ⟨_, illegal, fun s => by simp only [exec, execI2cWrite, ha]; rfl⟩
    rcases hn : lenOperand len with _ | n
    · exact ⟨_, illegal, fun s => by simp only [exec, execI2cWrite, ha, hn]; rfl⟩
    · exact ⟨_, .rawWrite ha hn, fun s => by simp only [exec, execI2cWrite, ha, hn]⟩
  case setBit byte index value =>
    rcases h : indexOperand index with _ | k
    · exact ⟨_, illegal, fun s => by simp only [exec, execSetBit, h]; rfl⟩
    · exact ⟨_, .value ((setBitOf byte k (boolOperand value)).setWidth 16), fun s => by simp only [exec, execSetBit, h]⟩
  case testBit byte index =>
    rcases h : indexOperand index with _ | k
    · exact ⟨_, illegal, fun s => by simp only [exec, execTestBit, h]; rfl⟩
    · exact ⟨_, .value ((testBitOf byte k).setWidth 16), fun s => by simp only [exec, execTestBit, h]⟩
  case resolvePin pin =>
    rcases h : resolvePinOf pin with _ | ⟨port, bit⟩
    · exact ⟨_, .rejected .invalidPin, fun s => by simp only [exec, execResolvePin, h]⟩
    · exact ⟨_, .value (port.tag ++ BitVec.ofNat 8 bit.val), fun s => by simp only [exec, execResolvePin, h]⟩
  case resolvePort port base =>
    rcases h : resolvePortOf port base with _ | reg
    · exact ⟨_, .rejected .invalidPort, fun s => by simp only [exec, execResolvePort, h]⟩
    · exact ⟨_, .value (reg.setWidth 16), fun s => by simp only [exec, execResolvePort, h]⟩
  case acknowledgeInterrupts port =>
    rcases h : resolvePortOf port GpioPair.interruptCapture.base with _ | reg
    · exact ⟨_, .rejected .invalidPort, fun s => by simp only [exec, execAcknowledgeInterrupts, h]⟩
    · exact ⟨_, .acknowledge [reg], fun s => by simp only [exec, execAcknowledgeInterrupts, h]⟩
  case initializeGpio address flag =>
    rcases ha : slaveOperand address with _ | a
    · exact ⟨_, illegal, fun s => by simp only [exec, execInitialize, ha]; rfl⟩
    · exact ⟨_, .initializeGpio ha, fun s => by simp only [exec, execInitialize, ha]⟩
  case bcdToDecimal | decimalToBcd => exact ⟨_, .value _, fun _ => rfl⟩
  case setDate => exact ⟨_, .setDate, fun _ => rfl⟩
  case readDate => exact ⟨_, .readDate, fun _ => rfl⟩
  case enableOutput => exact ⟨_, .control fun _ _ => rfl, fun _ => rfl⟩
  case disableOutput => exact ⟨_, .control fun _ _ => rfl, fun _ => rfl⟩
  case setFrequency code => exact ⟨_, .control fun p shadow => controlByte_setFrequency p shadow code, fun _ => rfl⟩
  case writeMemory address length => exact ⟨_, .writeMemory address length, fun _ => rfl⟩
  case readMemory address length => exact ⟨_, .readMemory address length, fun _ => rfl⟩
  case setCentury high low => exact ⟨_, .century high low, fun _ => rfl⟩
  case setPinDirection | setPinPolarity | setInterruptOnPin | setPinInterruptDefault | setPinInterruptType |
      setPinPullup | writePin => exact ⟨_, .pinSet _ _ _, fun _ => rfl⟩
  case getPinDirection | getPinPolarity | getInterruptOnPin | getPinInterruptDefault | getPinInterruptType |
      getPinPullup | readPin => exact ⟨_, .pinGet _ _, fun _ => rfl⟩
  case setPortDirection | setPortPolarity | setInterruptOnPort | setInterruptDefaults | setInterruptType |
      setPortPullups | writePort => exact ⟨_, .portWrite _ _ _, fun _ => rfl⟩
  case getPortDirection | getPortPolarity | getInterruptOnPort | getInterruptDefaults | getInterruptType |
      getPortPullups | readInterruptStatus | readInterruptCapture | readPort | readOutputLatch =>
    exact ⟨_, .portRead _ _, fun _ => rfl⟩

/-! ### What a body does to the block's own registers -/

/-- The registers that hold a command's arguments and settings are the same (R23 to R27, R29). -/
structure SameBlock (s t : State) : Prop where
  busPath      : t.busPath = s.busPath
  gpioAddr     : t.gpioAddr = s.gpioAddr
  gpioResetPol : t.gpioResetPol = s.gpioResetPol
  rtcCtrl      : t.rtcCtrl = s.rtcCtrl
  century      : t.century = s.century
  dbuf         : t.dbuf = s.dbuf

theorem SameBlock.trans {s t u : State} (h : SameBlock s t) (h' : SameBlock t u) : SameBlock s u :=
  ⟨h'.busPath.trans h.busPath, h'.gpioAddr.trans h.gpioAddr, h'.gpioResetPol.trans h.gpioResetPol,
    h'.rtcCtrl.trans h.rtcCtrl, h'.century.trans h.century, h'.dbuf.trans h.dbuf⟩

theorem sameBlock_beginCommand (s : State) : SameBlock s (beginCommand s) := ⟨rfl, rfl, rfl, rfl, rfl, rfl⟩
theorem sameBlock_setRval (v : Half) (s : State) : SameBlock s (setRval v s) := ⟨rfl, rfl, rfl, rfl, rfl, rfl⟩
theorem sameBlock_finish (s : State) : SameBlock s (finish s) := ⟨rfl, rfl, rfl, rfl, rfl, rfl⟩
theorem sameBlock_postFailure (f : Failure) (s : State) : SameBlock s (postFailure f s) := ⟨rfl, rfl, rfl, rfl, rfl, rfl⟩

theorem Talked.sameBlock {a : SlaveAddr} {s t : State} (h : Talked a s t) : SameBlock s t := by
  obtain ⟨_, hm⟩ := h.moved
  exact ⟨hm.busPath, hm.gpioAddr, hm.gpioResetPol, hm.rtcCtrl, hm.century, hm.dbuf⟩

theorem Talked.rlen {a : SlaveAddr} {s t : State} (h : Talked a s t) : t.rlen = s.rlen := by
  obtain ⟨_, hm⟩ := h.moved
  exact hm.rlen

/-- The commands that deliver bytes into the mailbox (R29, R32). -/
def DeliversBytes (i : Instr) : Prop := (∃ a r n, i = .i2cRead a r n) ∨ i = .readDate ∨ ∃ a n, i = .readMemory a n

/-- The one change a command may make to the block's own registers. -/
inductive BlockUpdate (s : State) : Instr → State → Prop
  | nothing {i : Instr} : BlockUpdate s i s
  | path (p : Byte) : BlockUpdate s (.busSetup p) { s with busPath := .path p }
  | century (high low : Byte) : BlockUpdate s (.setCentury high low) { s with century := wideOperand high low }
  | address {address flag : Byte} {a : SlaveAddr} (ha : slaveOperand address = some a) :
    BlockUpdate s (.initializeGpio address flag) (latchInit a (boolOperand flag) s)
  | control {i : Instr} {new : Byte} (hnew : controlByte s.params s.rtcCtrl i = some new) :
    BlockUpdate s i { s with rtcCtrl := new }
  | mailbox {i : Instr} (hi : DeliversBytes i) (d : Vector Byte 64) : BlockUpdate s i { s with dbuf := d }

/-- What the body of `i`, begun after `s`, leaves: a closed handle, at most the change `i` may make, canonical device
registers, and a count a transfer buffer can hold (R142). -/
structure BodyLeaves (i : Instr) (s : State) (r : Res Unit) : Prop where
  handle : r.state.handle = .closed
  block  : ∃ s', BlockUpdate s i s' ∧ SameBlock s' r.state
  wf     : s.env.devRegs.wf → r.state.env.devRegs.wf
  rlen   : r.state.rlen.toNat ≤ 63

section
variable {i : Instr} {s : State}

/-- A body that makes no bus call. -/
theorem BodyLeaves.of_no_call {r : Res Unit} (hs : s.handle = .closed) (hh : r.state.handle = s.handle)
    (he : r.state.env = s.env) (hl : r.state.rlen = 0) (hb : ∃ s', BlockUpdate s i s' ∧ SameBlock s' r.state) :
    BodyLeaves i s r :=
  ⟨hh.trans hs, hb, fun h => he ▸ h, by simp [hl]⟩

/-- A body of transactions with one slave. -/
theorem BodyLeaves.of_talked {a : SlaveAddr} {r : Res Unit} (h : Talked a (beginCommand s) r.state) :
    BodyLeaves i s r :=
  ⟨h.handle, ⟨s, .nothing, (sameBlock_beginCommand s).trans h.sameBlock⟩, h.wf, by simp [h.rlen]⟩

/-- Transactions with one slave, then a scalar result. -/
theorem BodyLeaves.of_talked_value {a : SlaveAddr} {r : Res Byte} (h : Talked a (beginCommand s) r.state)
    (value : Byte → Half) : BodyLeaves i s (r.andThen fun x u => returnValue (value x) u) := by
  have hb := (sameBlock_beginCommand s).trans h.sameBlock
  have hl : r.state.rlen.toNat ≤ 63 := by simp [h.rlen]
  cases r with
  | ok x u => exact ⟨h.handle, ⟨s, .nothing, hb.trans (sameBlock_setRval _ _)⟩, h.wf, hl⟩
  | err f u => exact ⟨h.handle, ⟨s, .nothing, hb⟩, h.wf, hl⟩

/-- Delivering bytes writes DBUF, and RLEN after a success. -/
theorem deliver_state (r : Res (List Byte)) :
    ∃ d n, (deliver r).state = { r.state with dbuf := d, rlen := n } ∧
      (n = r.state.rlen ∨ ∃ data u, r = .ok data u ∧ n = BitVec.ofNat 8 data.length) := by
  cases r with
  | ok data u => exact ⟨_, _, rfl, .inr ⟨data, u, rfl, rfl⟩⟩
  | err f u => cases f <;> exact ⟨_, _, rfl, .inl rfl⟩

/-- A raw read whose bytes go to the mailbox. -/
theorem BodyLeaves.of_deliver (hi : DeliversBytes i) {a : SlaveAddr} {reg : Byte} {n : Nat} (hs : s.handle = .closed)
    (hn : n ≤ 63) : BodyLeaves i s (deliver (memRead a reg n (beginCommand s))) := by
  have hc : (beginCommand s).handle = .closed := hs
  have h : Talked a (beginCommand s) (memRead a reg n (beginCommand s)).state := memRead_talked hc
  have hb := (sameBlock_beginCommand s).trans h.sameBlock
  obtain ⟨d, l, hd, hl⟩ := deliver_state (memRead a reg n (beginCommand s))
  refine ⟨by rw [hd]; exact h.handle, ⟨_, .mailbox hi d, ?_⟩, by rw [hd]; exact h.wf, ?_⟩
  · rw [hd]
    exact ⟨hb.busPath, hb.gpioAddr, hb.gpioResetPol, hb.rtcCtrl, hb.century, rfl⟩
  · rw [hd]
    rcases hl with rfl | ⟨data, u, hr, rfl⟩
    · simp [h.rlen]
    · have hlen := memRead_ok_length hc hr
      simp only [BitVec.toNat_ofNat]
      omega

/-- A read whose bytes go to the mailbox in another form, with a count of its own. -/
theorem BodyLeaves.of_talked_mailbox (hi : DeliversBytes i) {a : SlaveAddr} {r : Res (List Byte)} {n : Nat} (hn : n ≤ 63)
    (h : Talked a (beginCommand s) r.state) (form : List Byte → State → List Byte) :
    BodyLeaves i s (r.andThen fun data u => .ok () (setRlen n (setDbuf (form data u) u))) := by
  have hb := (sameBlock_beginCommand s).trans h.sameBlock
  cases r with
  | ok data u =>
    exact ⟨h.handle, ⟨_, .mailbox hi (mailboxStore 0 (form data u) u.dbuf),
      hb.busPath, hb.gpioAddr, hb.gpioResetPol, hb.rtcCtrl, hb.century, rfl⟩, h.wf, by
        simp only [Res.andThen, Res.state, setRlen_rlen, BitVec.toNat_ofNat]; omega⟩
  | err f u => exact .of_talked (r := .err f u) h

theorem BodyLeaves.of_writeControl {new : Byte} (hnew : controlByte s.params s.rtcCtrl i = some new)
    (hs : s.handle = .closed) : BodyLeaves i s (writeControl new (beginCommand s)) := by
  have h : Talked Config.rtcAddr (beginCommand s)
      (memWrite Config.rtcAddr RtcReg.control.addr [new] (beginCommand s)).state := memWrite_talked hs
  have hb := (sameBlock_beginCommand s).trans h.sameBlock
  have hl := h.rlen
  unfold writeControl
  cases hr : memWrite Config.rtcAddr RtcReg.control.addr [new] (beginCommand s) with
  | ok x u =>
    rw [hr] at h hb hl
    exact ⟨h.handle, ⟨_, .control hnew, hb.busPath, hb.gpioAddr, hb.gpioResetPol, rfl, hb.century, hb.dbuf⟩, h.wf,
      by simp_all [Res.andThen, Res.state]⟩
  | err f u =>
    rw [hr] at h
    exact .of_talked (r := .err f u) h

theorem BodyLeaves.of_initSteps {address flag : Byte} {a : SlaveAddr} (ha : slaveOperand address = some a)
    (hs : s.handle = .closed) : BodyLeaves (.initializeGpio address flag) s
      (initSteps (boolOperand flag) (latchInit a (boolOperand flag) (beginCommand s))) := by
  have h := initSteps_talked (flag := boolOperand flag) (s := latchInit a (boolOperand flag) (beginCommand s)) hs
  have hb := h.sameBlock
  exact ⟨h.handle, ⟨_, .address ha, hb.busPath, hb.gpioAddr, hb.gpioResetPol, hb.rtcCtrl, hb.century, hb.dbuf⟩, h.wf,
    by simp [h.rlen]⟩

end

theorem BodyOf.leaves {i : Instr} {body : State → Res Unit} (h : BodyOf i body) {s : State} (hs : s.handle = .closed) :
    BodyLeaves i s (body (beginCommand s)) := by
  have hb : (beginCommand s).handle = .closed := hs
  have rejected {i : Instr} {f : Failure} : BodyLeaves i s (.err f (beginCommand s)) :=
    .of_no_call hs rfl rfl rfl ⟨s, .nothing, sameBlock_beginCommand s⟩
  cases h with
  | value v => exact .of_no_call hs rfl rfl rfl ⟨s, .nothing, rfl, rfl, rfl, rfl, rfl, rfl⟩
  | rejected f => exact rejected
  | path p => exact .of_no_call hs rfl rfl rfl ⟨_, .path p, rfl, rfl, rfl, rfl, rfl, rfl⟩
  | century high low => exact .of_no_call hs rfl rfl rfl ⟨_, .century high low, rfl, rfl, rfl, rfl, rfl, rfl⟩
  | rawRead ha hn => exact .of_deliver (.inl ⟨_, _, _, rfl⟩) hs (lenOperand_le hn)
  | rawWrite ha hn => exact .of_talked (memWrite_talked hb)
  | pinSet base pin value => exact .of_talked (pinSet_talked hb)
  | pinGet base pin =>
    unfold Machine.pinGet
    split
    · exact rejected
    · exact .of_talked_value (gpioRead_talked hb) _
  | portWrite base port value => exact .of_talked (portWrite_talked hb)
  | portRead base port =>
    unfold Machine.portRead
    split
    · exact rejected
    · exact .of_talked_value (gpioRead_talked hb) _
  | acknowledge regs => exact .of_talked (gpioAcknowledge_talked regs hb rfl)
  | initializeGpio ha => exact .of_initSteps ha hs
  | setDate => exact .of_talked (memWrite_talked hb)
  | readDate => exact .of_talked_mailbox (.inr (.inl rfl)) (by decide) (memRead_talked hb) fun wire u => wireToCalendar u.century wire
  | control hnew => exact .of_writeControl (hnew _ _) hs
  | writeMemory address length =>
    dsimp only
    split
    · exact .of_talked (memWrite_talked hb)
    · exact rejected
  | readMemory address length =>
    dsimp only
    split
    · next hw => exact .of_deliver (.inr (.inr ⟨_, _, rfl⟩)) hs (inWindow_length_le hw)
    · exact rejected

end Sys2Proof.Machine
end

/-! ## What every command keeps (O15, O57, O58) -/

section
namespace Sys2Proof.Machine
open Sys2Proof.Safety Sys2Proof.Claims

/-- The ways a command ends (R8, R276): its body succeeded and it returns, or its body failed with the handle closed
again and the failure is posted. -/
theorem runCommand_cases {body : State → Res Unit} {s : State} (hh : (body (beginCommand s)).state.handle = .closed) :
    (∃ u, body (beginCommand s) = .ok () u ∧ runCommand body s = finish u) ∨
    (∃ f u, body (beginCommand s) = .err f u ∧ runCommand body s = postFailure f u) := by
  cases hr : body (beginCommand s) with
  | ok x u => exact .inl ⟨u, rfl, runCommand_ok hr⟩
  | err f u =>
    rw [hr] at hh
    exact .inr ⟨f, u, rfl, runCommand_err hr hh⟩

/-- A command ends with the block registers and the environment its body left. -/
theorem runCommand_keeps {body : State → Res Unit} {s : State} (hh : (body (beginCommand s)).state.handle = .closed) :
    SameBlock (body (beginCommand s)).state (runCommand body s) ∧
      (runCommand body s).env = (body (beginCommand s)).state.env := by
  rcases runCommand_cases hh with ⟨u, hr, ht⟩ | ⟨f, u, hr, ht⟩ <;> rw [hr, ht]
  · exact ⟨sameBlock_finish u, rfl⟩
  · exact ⟨sameBlock_postFailure f u, rfl⟩

/-- Every command makes at most the one change to the block's registers that `BlockUpdate` gives it. -/
theorem exec_blockUpdate {i : Instr} {s t : State} (hs : s.handle = .closed) (h : exec i s = .next t) :
    ∃ s', BlockUpdate s i s' ∧ SameBlock s' t := by
  obtain ⟨body, hb, he⟩ := exec_body i
  obtain ⟨hh, ⟨s', hu, hsame⟩, -, -⟩ := hb.leaves hs
  cases (he s).symm.trans h
  exact ⟨s', hu, hsame.trans (runCommand_keeps hh).1⟩

/-- Every command keeps the canonical form of the device registers (log 5). -/
theorem exec_wf {i : Instr} {s t : State} (hs : s.handle = .closed) (h : exec i s = .next t) (hwf : s.env.devRegs.wf) :
    t.env.devRegs.wf := by
  obtain ⟨body, hb, he⟩ := exec_body i
  have hl := hb.leaves hs
  cases (he s).symm.trans h
  rw [(runCommand_keeps hl.handle).2]
  exact hl.wf hwf

/-- The next state of a command is one that `Ended` speaks of. -/
theorem ended_of_exec {i : Instr} {s t : State} (hs : s.handle = .closed) (h : exec i s = .next t) :
    ∃ e l, Ended s t e l := by
  obtain ⟨t', e, l, h', hend⟩ := exec_ended i hs
  cases h.symm.trans h'
  exact ⟨e, l, hend⟩

theorem Failure.code_ne_ok (f : Failure) : f.code ≠ 0x00#8 := by
  cases f <;> simp [Failure.code]

theorem Failure.legalStatus_code (f : Failure) : legalStatus f.code = true := by
  cases f <;> rfl

section
variable {s t : State} {e l : List Event} (h : Ended s t e l)
include h

theorem Ended.wellBracketed : wellBracketed (e ++ l) = true := by
  refine wellBracketed_append h.brackets ?_
  rcases h.result with ⟨-, rfl⟩ | ⟨f, -, -, -, hl⟩
  · rfl
  · exact hl.wellBracketed

theorem Ended.legalStatus : legalStatus t.status = true := by
  rcases h.result with ⟨hst, -⟩ | ⟨f, hst, -⟩ <;> rw [hst]
  · rfl
  · exact f.legalStatus_code

/-- The count a failure records fits a transfer buffer (R142). -/
theorem Ended.rlen_le_of_failed (hst : t.status ≠ 0x00#8) : t.rlen.toNat ≤ 63 := by
  rcases h.result with ⟨hok, -⟩ | ⟨f, -, -, hr, hl⟩
  · exact absurd hok hst
  · rw [hr]
    cases f with
    | shortTransfer k data =>
      have hk : k ≤ 63 := hl.1
      simp only [Failure.rlenAfter, BitVec.toNat_ofNat]
      omega
    | busUnavailable | invalidPin | invalidPort | memoryRangeError | illegalCommand => decide

end

/-- R32, R142: no command leaves a count above 63 in RLEN. -/
theorem exec_rlen_le {i : Instr} {s t : State} (hs : s.handle = .closed) (h : exec i s = .next t) :
    t.rlen.toNat ≤ 63 := by
  obtain ⟨e, l, hend⟩ := ended_of_exec hs h
  obtain ⟨body, hb, he⟩ := exec_body i
  have hl := hb.leaves hs
  cases (he s).symm.trans h
  rcases runCommand_cases hl.handle with ⟨u, hr, ht⟩ | ⟨f, u, hr, ht⟩
  · rw [ht]
    have := hl.rlen
    rwa [hr] at this
  · exact hend.rlen_le_of_failed (by rw [ht]; exact f.code_ne_ok)

/-- Settles O15: `exec_ended` gives the events, those of the transactions done and those of a failed last one. -/
theorem historiesAreWellBracketed : Obligations.HistoriesAreWellBracketed := by
  intro i s hs
  obtain ⟨t, e, l, ht, hend⟩ := exec_ended i hs
  exact ⟨t, e ++ l, ht, hend.handle, hend.history, hend.wellBracketed⟩

/-- The only commands with a control byte are the three output commands (R236 to R238). -/
theorem outputCommand_of_controlByte {p : Params} {shadow new : Byte} {i : Instr}
    (h : controlByte p shadow i = some new) : i = .enableOutput ∨ i = .disableOutput ∨ ∃ c, i = .setFrequency c := by
  unfold controlByte at h
  split at h
  · exact .inl rfl
  · exact .inr (.inl rfl)
  · exact .inr (.inr ⟨_, rfl⟩)
  · cases h

/-- Settles O58: what no command changes is in `Ended`; the rest is the one change that `BlockUpdate` allows. -/
theorem registersOnlyTheirCommandsWrite : Obligations.RegistersOnlyTheirCommandsWrite := by
  intro i s t hs h
  obtain ⟨e, l, hend⟩ := ended_of_exec hs h
  obtain ⟨s', hu, hb⟩ := exec_blockUpdate hs h
  refine ⟨hend.cmd, hend.host, hend.params, hend.oracle, hend.board, ?_⟩
  rw [hb.busPath, hb.gpioAddr, hb.gpioResetPol, hb.rtcCtrl, hb.century, hb.dbuf]
  cases hu with
  | nothing => simp
  | path p => simp
  | century high low => simp
  | address ha => simp
  | control hnew => simp [outputCommand_of_controlByte hnew]
  | mailbox hi d => exact ⟨by simp, by simp, by simp, by simp, fun _ => hi⟩

end Sys2Proof.Machine
end

/-! ## No command reads STATUS

`beginCommand` overwrites RVAL, RLEN and BUSY; STATUS lasts to the end of the command, so each piece is shown to carry
whatever STATUS it is given through unread. -/

section
namespace Sys2Proof.Machine
open Sys2Proof.Safety Sys2Proof.Claims

/-- The state with another STATUS. -/
def withStatus (c : Byte) (s : State) : State := { s with status := c }

@[simp] theorem withStatus_busPath (c : Byte) (s : State) : (withStatus c s).busPath = s.busPath := rfl
@[simp] theorem withStatus_handle (c : Byte) (s : State) : (withStatus c s).handle = s.handle := rfl
@[simp] theorem withStatus_params (c : Byte) (s : State) : (withStatus c s).params = s.params := rfl
@[simp] theorem withStatus_env (c : Byte) (s : State) : (withStatus c s).env = s.env := rfl

/-- A piece of a command that does not read STATUS, nor write it. -/
def StatusBlind {α : Type} (f : State → Res α) : Prop := ∀ c s, f (withStatus c s) = (f s).mapState (withStatus c)

theorem StatusBlind.andThen {α β : Type} {f : State → Res α} {g : α → State → Res β} (hf : StatusBlind f)
    (hg : ∀ x, StatusBlind (g x)) : StatusBlind fun s => (f s).andThen g := by
  intro c s
  dsimp only
  rw [hf c s]
  cases f s with
  | ok x u => exact hg x c u
  | err e u => rfl

/-- A choice by the parameters, which no STATUS changes. -/
theorem StatusBlind.ite {α : Type} {f g : State → Res α} (p : Params → Bool) (hf : StatusBlind f) (hg : StatusBlind g) :
    StatusBlind fun s => if p s.params then f s else g s := by
  intro c s
  by_cases h : p s.params = true
  · simpa [h] using hf c s
  · simpa [h] using hg c s

/-! ### Bus calls -/

theorem busOpen_withStatus (c : Byte) (s : State) :
    busOpen (withStatus c s) = ((busOpen s).1, withStatus c (busOpen s).2) := by
  unfold busOpen
  rw [withStatus_busPath]
  cases s.busPath <;> rfl

theorem busBind_withStatus (a : SlaveAddr) (c : Byte) (s : State) :
    busBind a (withStatus c s) = ((busBind a s).1, withStatus c (busBind a s).2) := rfl

theorem busWrite_withStatus (buf : List Byte) (c : Byte) (s : State) :
    busWrite buf (withStatus c s) = ((busWrite buf s).1, withStatus c (busWrite buf s).2) := rfl

theorem busRead_withStatus (n : Nat) (c : Byte) (s : State) :
    busRead n (withStatus c s) = ((busRead n s).1, withStatus c (busRead n s).2) := by
  unfold busRead
  rw [withStatus_handle, withStatus_env]
  cases s.handle with
  | closed | opened => rfl
  | bound a =>
    dsimp only
    cases deviceAt s.env.advance.board a <;> rfl

theorem readNotMade_withStatus (reg : Byte) (n : Nat) (d : Draw) (c : Byte) (s : State) :
    readNotMade reg n d (withStatus c s) = withStatus c (readNotMade reg n d s) := by
  unfold readNotMade
  rw [withStatus_handle, withStatus_env]
  cases s.handle with
  | closed | opened => rfl
  | bound a =>
    dsimp only
    cases deviceAt s.env.board a with
    | none => rfl
    | some dev => cases dev <;> rfl

/-! ### Transport -/

theorem openAttempts_withStatus (n : Nat) (c : Byte) : ∀ s : State,
    openAttempts n (withStatus c s) = ((openAttempts n s).1, withStatus c (openAttempts n s).2) := by
  induction n with
  | zero => exact busOpen_withStatus c
  | succ n ih =>
    intro s
    simp only [openAttempts, busOpen_withStatus]
    rcases busOpen s with ⟨ok, u⟩
    cases ok with
    | true => rfl
    | false => exact ih (sleep u)

theorem openTransaction_statusBlind (a : SlaveAddr) : StatusBlind (openTransaction a) := by
  intro c s
  simp only [openTransaction, withStatus_params, openAttempts_withStatus]
  rcases openAttempts s.params.maxRetries s with ⟨ok, u⟩
  cases ok with
  | false => rfl
  | true =>
    dsimp only
    rw [show setHandle .opened (withStatus c u) = withStatus c (setHandle .opened u) from rfl, busBind_withStatus]
    rcases busBind a (setHandle .opened u) with ⟨ok, v⟩
    cases ok <;> rfl

theorem readBytes_statusBlind (reg : Byte) (n : Nat) : StatusBlind (readBytes reg n) := by
  intro c s
  simp only [readBytes, busWrite_withStatus, busRead_withStatus, readNotMade_withStatus, withStatus_env]
  split
  · rfl
  · split <;> rfl

theorem writeBytes_statusBlind (reg : Byte) (v : List Byte) : StatusBlind (writeBytes reg v) := by
  intro c s
  simp only [writeBytes, busWrite_withStatus]
  by_cases h : (busWrite (reg :: v) s).1 = v.length + 1 <;> simp [h, Res.mapState]

/-- Closing after a piece. -/
theorem StatusBlind.mapState_close {α : Type} {f : State → Res α} (hf : StatusBlind f) :
    StatusBlind fun s => (f s).mapState close := by
  intro c s
  dsimp only
  rw [hf c s]
  cases f s <;> rfl

theorem memRead_statusBlind (a : SlaveAddr) (reg : Byte) (n : Nat) : StatusBlind (memRead a reg n) :=
  (openTransaction_statusBlind a).andThen fun _ => (readBytes_statusBlind reg n).mapState_close

theorem memWrite_statusBlind (a : SlaveAddr) (reg : Byte) (v : List Byte) : StatusBlind (memWrite a reg v) :=
  (openTransaction_statusBlind a).andThen fun _ => (writeBytes_statusBlind reg v).mapState_close

/-! ### Templates and bodies -/

theorem returnValue_statusBlind (v : Half) : StatusBlind (returnValue v) := fun _ _ => rfl

theorem err_statusBlind {α : Type} (f : Failure) : StatusBlind (.err f : State → Res α) := fun _ _ => rfl

theorem gpioRead_statusBlind (reg : Byte) : StatusBlind (gpioRead reg) := fun c s =>
  (memRead_statusBlind s.gpioAddr reg 1).andThen (fun _ _ _ => rfl) c s

theorem gpioWrite_statusBlind (reg v : Byte) : StatusBlind (gpioWrite reg v) := fun c s =>
  memWrite_statusBlind s.gpioAddr reg [v] c s

theorem pinSet_statusBlind (base pin value : Byte) : StatusBlind (pinSet base pin value) := by
  unfold pinSet
  cases regOfPin base pin with
  | none => exact err_statusBlind .invalidPin
  | some p => exact (gpioRead_statusBlind _).andThen fun _ => gpioWrite_statusBlind _ _

theorem pinGet_statusBlind (base pin : Byte) : StatusBlind (pinGet base pin) := by
  unfold pinGet
  cases regOfPin base pin with
  | none => exact err_statusBlind .invalidPin
  | some p => exact (gpioRead_statusBlind _).andThen fun _ => returnValue_statusBlind _

theorem portWrite_statusBlind (base port value : Byte) : StatusBlind (portWrite base port value) := by
  unfold portWrite
  cases resolvePortOf port base with
  | none => exact err_statusBlind .invalidPort
  | some reg => exact gpioWrite_statusBlind _ _

theorem portRead_statusBlind (base port : Byte) : StatusBlind (portRead base port) := by
  unfold portRead
  cases resolvePortOf port base with
  | none => exact err_statusBlind .invalidPort
  | some reg => exact (gpioRead_statusBlind _).andThen fun _ => returnValue_statusBlind _

theorem gpioWrites_statusBlind (ws : List (Byte × Byte)) : StatusBlind (gpioWrites ws) := by
  induction ws with
  | nil => exact fun _ _ => rfl
  | cons w ws ih => exact (gpioWrite_statusBlind w.1 w.2).andThen fun _ => ih

theorem gpioAcknowledge_statusBlind (regs : List Byte) : StatusBlind (gpioAcknowledge regs) := by
  induction regs with
  | nil => exact fun _ _ => rfl
  | cons reg regs ih => exact (gpioRead_statusBlind reg).andThen fun _ => ih

theorem initSteps_statusBlind (flag : Bool) : StatusBlind (initSteps flag) := fun c s =>
  (gpioWrite_statusBlind chipConfiguration s.params.ioconInit).andThen (fun _ => .ite (fun _ => flag)
    (fun c u => (gpioWrites_statusBlind (resetWrites u.params)).andThen
      (fun _ => gpioAcknowledge_statusBlind resetAcknowledges) c u)
    fun _ _ => rfl) c s

theorem writeControl_statusBlind (new : Byte) : StatusBlind (writeControl new) :=
  (memWrite_statusBlind _ _ _).andThen fun _ _ _ => rfl

theorem StatusBlind.deliver {f : State → Res (List Byte)} (hf : StatusBlind f) :
    StatusBlind fun s => Machine.deliver (f s) := by
  intro c s
  dsimp only
  rw [hf c s]
  cases f s with
  | ok data u => rfl
  | err e u => cases e <;> rfl

theorem BodyOf.statusBlind {i : Instr} {body : State → Res Unit} (h : BodyOf i body) : StatusBlind body := by
  cases h with
  | value v => exact returnValue_statusBlind v
  | rejected f => exact err_statusBlind f
  | path p => exact fun _ _ => rfl
  | century high low => exact fun _ _ => rfl
  | rawRead ha hn => exact (memRead_statusBlind _ _ _).deliver
  | rawWrite ha hn => exact fun c s => memWrite_statusBlind _ _ _ c s
  | pinSet base pin value => exact pinSet_statusBlind base pin value
  | pinGet base pin => exact pinGet_statusBlind base pin
  | portWrite base port value => exact portWrite_statusBlind base port value
  | portRead base port => exact portRead_statusBlind base port
  | acknowledge regs => exact gpioAcknowledge_statusBlind regs
  | initializeGpio ha => exact fun c s => initSteps_statusBlind _ c (latchInit _ _ s)
  | setDate => exact fun c s => memWrite_statusBlind _ _ (calendarToWire s.dbuf) c s
  | readDate => exact (memRead_statusBlind _ _ _).andThen fun _ _ _ => rfl
  | control hnew => exact fun c s => writeControl_statusBlind _ c s
  | writeMemory address length =>
    exact .ite (inWindow · address length) (fun c s => memWrite_statusBlind _ _ (dbufPrefix length.toNat s) c s)
      (err_statusBlind _)
  | readMemory address length =>
    exact .ite (inWindow · address length) (memRead_statusBlind _ _ _).deliver (err_statusBlind _)

/-- The end of a command overwrites STATUS. -/
theorem endCommand_withStatus (c : Byte) (r : Res Unit) : endCommand (r.mapState (withStatus c)) = endCommand r := by
  cases r with
  | ok x u => rfl
  | err f u =>
    show postFailure f (closeIfOpen (withStatus c u)) = postFailure f (closeIfOpen u)
    unfold closeIfOpen
    rw [withStatus_handle]
    cases u.handle <;> rfl

/-- Settles O57: `beginCommand` overwrites RVAL, RLEN and BUSY, and the body carries STATUS to the end unread. -/
theorem noCommandReadsTheResultRegisters : Obligations.NoCommandReadsTheResultRegisters := by
  intro i s a b v w
  obtain ⟨body, hb, he⟩ := exec_body i
  have hbegin : beginCommand { s with status := a, rval := v, rlen := b, busy := w } =
      withStatus a (beginCommand s) := rfl
  rw [he, he, runCommand, hbegin, hb.statusBlind, endCommand_withStatus, runCommand]

end Sys2Proof.Machine
end

/-! ## The machine's invariant (O11, O12) -/

section
namespace Sys2Proof.Machine
open Sys2Proof.Safety Sys2Proof.Claims

/-- Settles O11: each clause by the value `State.reset` gives the field. -/
theorem invariantHoldsAtReset : Obligations.InvariantHoldsAtReset where
  idle := ⟨rfl, rfl⟩
  brackets := rfl
  status := rfl
  rlen := by decide
  dormant := fun _ _ _ _ => rfl
  gpioAddr := by decide
  regs := List.Pairwise.nil

/-! ### The dormant bits of the shadow (R26) -/

/-- R121: `testBit` returns the bit and no more. -/
theorem testBitOf_eq_ofBool (b : Byte) (j : Fin 8) : testBitOf b j = (BitVec.ofBool (b.getLsbD j)).setWidth 8 := by
  simp [testBitOf, BitVec.and_one_eq_setWidth_ofBool_getLsbD]

/-- R120: `setBit` forces one bit. -/
theorem getLsbD_setBitOf (b : Byte) (i j : Fin 8) (v : Bool) :
    (setBitOf b i v).getLsbD j = if j = i then v else b.getLsbD j := by
  have hmask : (0x01#8 <<< i.val).getLsbD j = decide (j = i) := by
    rw [← BitVec.twoPow, BitVec.getLsbD_twoPow]
    simp [Fin.ext_iff, eq_comm]
  unfold setBitOf
  cases v with
  | true =>
    rw [if_pos rfl, BitVec.getLsbD_or, hmask]
    by_cases h : j = i <;> simp [h]
  | false =>
    rw [if_neg (by decide), BitVec.getLsbD_and, BitVec.getLsbD_not, hmask]
    by_cases h : j = i <;> simp [h]

theorem testBitOf_setBitOf_other (b : Byte) {i j : Fin 8} (v : Bool) (h : j ≠ i) :
    testBitOf (setBitOf b i v) j = testBitOf b j := by
  rw [testBitOf_eq_ofBool, testBitOf_eq_ofBool, getLsbD_setBitOf, if_neg h]

/-- A composed control byte differs from the shadow in SQWE, RS0 and RS1 at most (R236 to R238). -/
theorem testBitOf_controlByte {p : Params} {shadow new : Byte} {i : Instr} (h : controlByte p shadow i = some new)
    {j : Fin 8} (h1 : j ≠ p.sqweBit) (h2 : j ≠ p.rs0Bit) (h3 : j ≠ p.rs1Bit) :
    testBitOf new j = testBitOf shadow j := by
  unfold controlByte at h
  split at h
  · cases h
    exact testBitOf_setBitOf_other _ _ h1
  · cases h
    exact testBitOf_setBitOf_other _ _ h1
  · cases h
    rw [testBitOf_setBitOf_other _ _ h3, testBitOf_setBitOf_other _ _ h2]
  · cases h

/-! ### Commands -/

/-- R24: no command stores 0 in GPIOADDR. -/
theorem BlockUpdate.gpioAddr_ne_zero {s s' : State} {i : Instr} (h : BlockUpdate s i s') (hs : s.gpioAddr ≠ 0x00#7) :
    s'.gpioAddr ≠ 0x00#7 := by
  cases h with
  | nothing | path | century | control | mailbox => exact hs
  | @address _ _ a _ =>
    rw [latchInit_gpioAddr]
    split
    · exact hs
    · assumption

/-- R26: the bits of the shadow that no command composes stay as they are, and so do the parameters. -/
theorem BlockUpdate.dormant {s s' : State} {i : Instr} (h : BlockUpdate s i s') (hs : dormantBitsKept s) :
    s'.params = s.params ∧ dormantBitsKept s' := by
  cases h with
  | nothing | path | century | address | mailbox => exact ⟨rfl, hs⟩
  | control hnew => exact ⟨rfl, fun j h1 h2 h3 => (testBitOf_controlByte hnew h1 h2 h3).trans (hs j h1 h2 h3)⟩

/-- Every command keeps the invariant. -/
theorem exec_inv {i : Instr} {s t : State} (hs : Inv s) (h : exec i s = .next t) : Inv t := by
  have hc : s.handle = .closed := hs.idle.1
  obtain ⟨e, l, hend⟩ := ended_of_exec hc h
  obtain ⟨s', hu, hb⟩ := exec_blockUpdate hc h
  obtain ⟨hp, hd⟩ := hu.dormant hs.dormant
  refine ⟨⟨hend.handle, hend.busy⟩, ?_, hend.legalStatus, exec_rlen_le hc h, ?_, ?_, exec_wf hc h hs.regs⟩
  · rw [hend.history]
    exact wellBracketed_append hs.brackets hend.wellBracketed
  · unfold dormantBitsKept at hd ⊢
    rwa [hend.params, hb.rtcCtrl, ← hp]
  · rw [hb.gpioAddr]
    exact hu.gpioAddr_ne_zero hs.gpioAddr

theorem illegalCommand_inv {s : State} (hs : Inv s) : Inv (illegalCommand s) := by
  rw [illegalCommand_eq hs.idle.1]
  exact ⟨⟨hs.idle.1, rfl⟩, hs.brackets, rfl, Nat.zero_le 63, hs.dormant, hs.gpioAddr, hs.regs⟩

/-! ### Moves of the host -/

theorem takeMove_inv {s : State} (rest : List HostMove) (hs : Inv s) : Inv (takeMove rest s) :=
  ⟨hs.idle, hs.brackets, hs.status, hs.rlen, hs.dormant, hs.gpioAddr, hs.regs⟩

theorem hostStore_inv {s : State} (i : Fin 64) (v : Byte) (hs : Inv s) : Inv (hostStore i v s) :=
  ⟨hs.idle, hs.brackets, hs.status, hs.rlen, hs.dormant, hs.gpioAddr, hs.regs⟩

theorem resetBlock_inv {s : State} (hs : Inv s) : Inv (resetBlock s) :=
  have hg : Config.gpioAddrDefault ≠ 0x00#7 := by decide
  ⟨⟨rfl, rfl⟩, rfl, rfl, Nat.zero_le 63, fun _ _ _ _ => rfl, hg, hs.regs⟩

theorem latchedWord_inv {s : State} (w : Word) (hs : Inv s) : Inv { s with cmd := w } :=
  ⟨hs.idle, hs.brackets, hs.status, hs.rlen, hs.dormant, hs.gpioAddr, hs.regs⟩

/-- R277: BUSY, which `acceptCommand` raises, is nothing a command reads. -/
theorem exec_acceptCommand (i : Instr) (w : Word) (s : State) :
    exec i (acceptCommand w s) = exec i { s with cmd := w } :=
  noCommandReadsTheResultRegisters i { s with cmd := w } s.status s.rlen s.rval true

theorem illegalCommand_acceptCommand (w : Word) (s : State) :
    illegalCommand (acceptCommand w s) = illegalCommand { s with cmd := w } := rfl

/-- A command word, legal or not, keeps the invariant. -/
theorem runPort_inv {s t : State} (w : Word) (hs : Inv s) (h : runPort (acceptCommand w s) = .next t) : Inv t := by
  unfold runPort at h
  split at h
  · rw [exec_acceptCommand] at h
    exact exec_inv (latchedWord_inv w hs) h
  · cases h
    rw [illegalCommand_acceptCommand]
    exact illegalCommand_inv (latchedWord_inv w hs)

/-- What one step can be (R33, R317): an idle block with no move left, or the next move of the host. -/
theorem step_cases {s t : State} (h : step s = .next t) :
    s.busy = false ∧ (s.host = [] ∧ t = s ∨ ∃ rest,
      (∃ i v, s.host = .storeDbuf i v :: rest ∧ t = hostStore i v (takeMove rest s)) ∨
      (s.host = .reset :: rest ∧ t = resetBlock (takeMove rest s)) ∨
      (∃ w, s.host = .writeCmd w :: rest ∧ runPort (acceptCommand w (takeMove rest s)) = .next t)) := by
  unfold step at h
  split at h
  · cases h
  · next hbusy =>
    refine ⟨hbusy, ?_⟩
    split at h
    · next hh => cases h; exact .inl ⟨hh, rfl⟩
    · next hh => cases h; exact .inr ⟨_, .inl ⟨_, _, hh, rfl⟩⟩
    · next hh => cases h; exact .inr ⟨_, .inr (.inl ⟨hh, rfl⟩)⟩
    · next hh => exact .inr ⟨_, .inr (.inr ⟨_, hh, h⟩)⟩

/-- Settles O12: by the kind of the host's move; for a command, the invariant is `exec_inv`. -/
theorem everyStepKeepsTheInvariant : Obligations.EveryStepKeepsTheInvariant := by
  intro s t hs h
  obtain ⟨-, ⟨-, rfl⟩ | ⟨rest, ⟨i, v, -, rfl⟩ | ⟨-, rfl⟩ | ⟨w, -, hrun⟩⟩⟩ := step_cases h
  · exact hs
  · exact hostStore_inv i v (takeMove_inv rest hs)
  · exact resetBlock_inv (takeMove_inv rest hs)
  · exact runPort_inv w (takeMove_inv rest hs) hrun

end Sys2Proof.Machine
end

/-! ## The shadow and the device (O55) -/

section
namespace Sys2Proof.Machine
open Sys2Proof.Safety Sys2Proof.Claims

/-- The key of the RTC's control register. -/
abbrev controlKey : Nat := regKey Config.rtcAddr RtcReg.control.addr.toNat

/-- A transfer into the RTC's registers, whatever part of it the RTC takes, changes nothing outside the registers it
names (R60). -/
theorem memWrite_rtc_others {reg : Byte} {v : List Byte} {s : State} (hs : s.handle = .closed)
    (hr : reg.toNat + v.length ≤ 0x40) {x : Nat} (hx : ∀ i < v.length, x ≠ regKey Config.rtcAddr (reg.toNat + i)) :
    (memWrite Config.rtcAddr reg v s).state.env.devRegs.read x = s.env.devRegs.read x := by
  obtain ⟨_, j, _, hd⟩ := memWrite_state (a := Config.rtcAddr) (reg := reg) (v := v) hs
  rw [hd]
  cases j with
  | zero => rw [List.take_zero, regsAfterWrite_nil]
  | succ j =>
    have hl : (v.take j).length ≤ v.length := List.length_take_le' ..
    rw [List.take_succ_cons, regsAfterWrite_rtc (by omega)]
    exact storeBytes_read_other _ _ _ _ fun i hi => hx i (by omega)

/-- Under `exact_prefix` a control write that failed moved at most the address byte, and so changed nothing; one that
succeeded stored the byte. -/
theorem memWrite_control {new : Byte} {s : State} (hs : s.handle = .closed)
    (he : s.params.shortWriteEffect = .exactPrefix) :
    (∃ f t, memWrite Config.rtcAddr RtcReg.control.addr [new] s = .err f t ∧ t.env.devRegs = s.env.devRegs) ∨
    (∃ t, memWrite Config.rtcAddr RtcReg.control.addr [new] s = .ok () t ∧
      t.env.devRegs.read controlKey = some new) := by
  rcases memWrite_cases (slave := Config.rtcAddr) (reg := RtcReg.control.addr) (v := [new]) hs with
    ⟨t, h, -, hd⟩ | ⟨r, -, t, h, -, hd⟩ | ⟨r, -, t, k, hk, j, -, h, -, hj, hd⟩ | ⟨r, -, t, h, -, hd⟩
  · exact .inl ⟨_, t, h, hd⟩
  · exact .inl ⟨_, t, h, hd⟩
  · refine .inl ⟨_, t, h, ?_⟩
    have hj1 : j ≤ 1 := (hj he).trans_le hk
    rw [hd]
    interval_cases j
    · exact regsAfterWrite_nil _ _
    · exact deviceTake_address_devRegs _ _ _ 1 _
  · refine .inr ⟨t, h, ?_⟩
    rw [hd, regsAfterWrite_rtc (by simp [RtcReg.addr])]
    exact Memory.read_write_same ..

/-- What keeps the shadow and the device together: the device's register is known to hold the shadow, and the expander's
address is not the RTC's. -/
def ShadowHeld (s : State) : Prop := shadowAgrees s ∧ s.gpioAddr ≠ Config.rtcAddr

theorem ShadowHeld.of_eq {s t : State} (h : ShadowHeld s) (hr : t.env.devRegs.read controlKey = s.env.devRegs.read controlKey)
    (hc : t.rtcCtrl = s.rtcCtrl) (hg : t.gpioAddr = s.gpioAddr) : ShadowHeld t := by
  unfold ShadowHeld shadowAgrees at *
  rw [hr, hc, hg]
  exact h

/-- Transactions with another slave leave the control register alone. -/
theorem ShadowHeld.of_talked {a : SlaveAddr} {s t : State} (h : ShadowHeld s) (ha : a ≠ Config.rtcAddr)
    (ht : Talked a s t) : ShadowHeld t := by
  refine h.of_eq (ht.others _ ?_) ht.sameBlock.rtcCtrl ht.gpioAddr
  rw [regKey_div]
  exact fun hk => ha (BitVec.eq_of_toNat_eq hk.symm)

/-- So do writes to other registers of the RTC. -/
theorem ShadowHeld.of_memWrite {reg : Byte} {v : List Byte} {s : State} (h : ShadowHeld s) (hs : s.handle = .closed)
    (hr : reg.toNat + v.length ≤ 0x40) (h7 : reg.toNat + v.length ≤ 7 ∨ 7 < reg.toNat) :
    ShadowHeld (memWrite Config.rtcAddr reg v s).state := by
  have ht := memWrite_talked (a := Config.rtcAddr) (reg := reg) (v := v) hs
  refine h.of_eq (memWrite_rtc_others hs hr fun i hi hk => ?_) ht.sameBlock.rtcCtrl ht.gpioAddr
  have := regKey_inj.1 hk
  simp only [RtcReg.addr, BitVec.toNat_ofNat] at this
  omega

/-- So do reads, of whatever slave. -/
theorem ShadowHeld.of_memRead {a : SlaveAddr} {reg : Byte} {n : Nat} {s : State} (h : ShadowHeld s)
    (hs : s.handle = .closed) (hn : n ≤ 63) : ShadowHeld (memRead a reg n s).state := by
  have ht := memRead_talked (a := a) (reg := reg) (n := n) hs
  exact h.of_eq ((memRead_known hs hn h.1).trans h.1.symm) ht.sameBlock.rtcCtrl ht.gpioAddr

theorem ShadowHeld.of_writeControl {new : Byte} {s : State} (h : ShadowHeld s) (hs : s.handle = .closed)
    (he : s.params.shortWriteEffect = .exactPrefix) : ShadowHeld (writeControl new s).state := by
  have ht := memWrite_talked (a := Config.rtcAddr) (reg := RtcReg.control.addr) (v := [new]) hs
  unfold writeControl
  rcases memWrite_control (new := new) hs he with ⟨f, t, hr, hd⟩ | ⟨t, hr, hd⟩ <;> rw [hr] at ht ⊢
  · exact h.of_eq (congrArg (Memory.read · controlKey) hd) ht.sameBlock.rtcCtrl ht.gpioAddr
  · exact ⟨hd, fun hg => h.2 (ht.gpioAddr.symm.trans hg)⟩

/-- Another update after a success. -/
theorem ShadowHeld.andThen_ok {α : Type} {r : Res α} (h : ShadowHeld r.state) (post : α → State → State)
    (hp : ∀ x u, ShadowHeld u → ShadowHeld (post x u)) : ShadowHeld (r.andThen fun x u => .ok () (post x u)).state := by
  cases r with
  | ok x u => exact hp x u h
  | err f u => exact h

theorem ShadowHeld.deliver {r : Res (List Byte)} (h : ShadowHeld r.state) : ShadowHeld (Machine.deliver r).state := by
  obtain ⟨d, n, hd, -⟩ := deliver_state r
  rw [hd]
  exact h

theorem ShadowHeld.mailbox {s : State} (h : ShadowHeld s) (n : Nat) (data : List Byte) :
    ShadowHeld (setRlen n (setDbuf data s)) := h

/-- An address operand that is not the RTC's names another slave. -/
theorem slaveOperand_ne_rtc {x : Byte} {a : SlaveAddr} (ha : slaveOperand x = some a) (hx : x ≠ 0x68#8) :
    a ≠ Config.rtcAddr := by
  unfold slaveOperand addressLegal at ha
  split at ha
  · next hl =>
    cases ha
    intro h
    apply hx
    have hl := of_decide_eq_true hl
    have := congrArg BitVec.toNat h
    apply BitVec.eq_of_toNat_eq
    simp only [Config.rtcAddr, BitVec.toNat_setWidth, BitVec.toNat_ofNat] at this ⊢
    omega
  · cases ha

/-- The bounds that the range check gives a window access when its lower bound is enforced (R240). -/
theorem inWindow_bounds {p : Params} {address length : Byte} (hp : p.memLowBoundEnforced = true)
    (h : inWindow p address length = true) : 8 ≤ address.toNat ∧ address.toNat + length.toNat ≤ 0x3F := by
  obtain ⟨hhi, hlo⟩ := Bool.and_eq_true_iff.1 h
  rw [hp, Bool.not_true, Bool.false_or] at hlo
  exact ⟨of_decide_eq_true hlo, of_decide_eq_true hhi⟩

theorem BodyOf.shadowHeld {i : Instr} {body : State → Res Unit} (hb : BodyOf i body) {s : State} (h : ShadowHeld s)
    (hs : s.handle = .closed) (he : s.params.shortWriteEffect = .exactPrefix)
    (hlow : s.params.memLowBoundEnforced = true) (hi : bypassesShadow i = false) : ShadowHeld (body s).state := by
  cases hb with
  | value | rejected | path | century => exact h
  | rawRead ha hn => exact (h.of_memRead hs (lenOperand_le hn)).deliver
  | rawWrite ha hn => exact h.of_talked (slaveOperand_ne_rtc ha (of_decide_eq_false hi)) (memWrite_talked hs)
  | pinSet base pin value => exact h.of_talked h.2 (pinSet_talked hs)
  | pinGet base pin =>
    unfold Machine.pinGet
    split
    · exact h
    · exact (h.of_talked h.2 (gpioRead_talked hs)).andThen_ok (fun x u => setRval _ u) fun _ _ hu => hu
  | portWrite base port value => exact h.of_talked h.2 (portWrite_talked hs)
  | portRead base port =>
    unfold Machine.portRead
    split
    · exact h
    · exact (h.of_talked h.2 (gpioRead_talked hs)).andThen_ok (fun x u => setRval _ u) fun _ _ hu => hu
  | acknowledge regs => exact h.of_talked h.2 (gpioAcknowledge_talked regs hs rfl)
  | @initializeGpio address flag a ha =>
    have hl : ShadowHeld (latchInit a (boolOperand flag) s) := by
      refine ⟨h.1, ?_⟩
      rw [latchInit_gpioAddr]
      split
      · exact h.2
      · exact slaveOperand_ne_rtc ha (of_decide_eq_false hi)
    exact hl.of_talked hl.2 (initSteps_talked hs)
  | setDate => exact h.of_memWrite hs (by simp [RtcReg.addr, calendarToWire]) (.inl (by simp [RtcReg.addr, calendarToWire]))
  | readDate =>
    have hr : ShadowHeld (memRead Config.rtcAddr RtcReg.seconds.addr 7 s).state := h.of_memRead hs (by decide)
    exact hr.andThen_ok (fun wire u => setRlen 8 (setDbuf (wireToCalendar u.century wire) u))
      fun _ _ hu => hu.mailbox _ _
  | control hnew => exact h.of_writeControl hs he
  | writeMemory address length =>
    dsimp only
    split
    · next hw =>
      have := inWindow_bounds hlow hw
      have := dbufPrefix_length_le length.toNat s
      exact h.of_memWrite hs (by omega) (.inr (by omega))
    · exact h
  | readMemory address length =>
    dsimp only
    split
    · next hw => exact (h.of_memRead hs (inWindow_length_le hw)).deliver
    · exact h

/-- Settles O55: every shape of body keeps the shadow and the device together, and the end of a command changes
neither. -/
theorem shadowStaysEqualToTheDevice : Obligations.ShadowStaysEqualToTheDevice := by
  intro i s t hs he hlow hg hi hsh h
  obtain ⟨body, hb, hexec⟩ := exec_body i
  have hbegin : ShadowHeld (beginCommand s) := ⟨hsh, hg⟩
  have hheld := hb.shadowHeld hbegin hs he hlow hi
  obtain ⟨hsame, henv⟩ := runCommand_keeps (hb.leaves hs).handle
  cases (hexec s).symm.trans h
  exact hheld.of_eq (by rw [henv]) hsame.rtcCtrl hsame.gpioAddr

end Sys2Proof.Machine
end

/-! ## Granted RTC commands (O43, O44, O46) -/

section
namespace Sys2Proof.Machine
open Sys2Proof.Safety Sys2Proof.Claims

/-! ### A granted transaction inside a command -/

theorem openGranted_beginCommand {s : State} {j r : Nat} (h : OpenGranted s j r) : OpenGranted (beginCommand s) j r :=
  ⟨h.path, h.retries, h.refused, h.opened, h.bound⟩

theorem readGranted_beginCommand {s : State} {j r n : Nat} (h : ReadGranted s j r n) :
    ReadGranted (beginCommand s) j r n :=
  ⟨openGranted_beginCommand h.toOpenGranted, h.address, h.bytes⟩

theorem writeGranted_beginCommand {s : State} {j r n : Nat} (h : WriteGranted s j r n) :
    WriteGranted (beginCommand s) j r n :=
  ⟨openGranted_beginCommand h.toOpenGranted, h.moved⟩

section
variable {s u : State} {evs : List Event} (h : Transacted (beginCommand s) u evs)
include h

/-- A command that returns after transactions alone has changed the result registers only. -/
theorem Transacted.sameRegisters_finish : SameRegisters s (finish u) :=
  ⟨h.moved.busPath, h.moved.gpioAddr, h.moved.gpioResetPol, h.moved.rtcCtrl, h.moved.century, h.moved.dbuf,
    h.moved.cmd, h.moved.host, h.moved.params, h.oracle, h.board, h.handle, rfl⟩

theorem Transacted.results_finish : Results (finish u) 0x00 0 0 := by
  refine ⟨rfl, h.moved.rval, ?_⟩
  rw [finish_rlen, h.moved.rlen]
  rfl

theorem Transacted.history_finish : (finish u).history = s.history ++ evs := h.moved.history

/-- A command that then delivers bytes to the mailbox has changed DBUF besides. -/
theorem Transacted.sameRegisters_mailbox (n : Nat) (data : List Byte) :
    SameRegisters s { finish (setRlen n (setDbuf data u)) with dbuf := s.dbuf } :=
  ⟨h.moved.busPath, h.moved.gpioAddr, h.moved.gpioResetPol, h.moved.rtcCtrl, h.moved.century, rfl,
    h.moved.cmd, h.moved.host, h.moved.params, h.oracle, h.board, h.handle, rfl⟩

theorem Transacted.results_mailbox {n : Nat} (hn : n < 256) (data : List Byte) :
    Results (finish (setRlen n (setDbuf data u))) 0x00 0 n := by
  refine ⟨rfl, h.moved.rval, ?_⟩
  rw [finish_rlen, setRlen_rlen, BitVec.toNat_ofNat]
  omega

theorem Transacted.dbuf_mailbox (n : Nat) (data : List Byte) :
    (finish (setRlen n (setDbuf data u))).dbuf = mailboxStore 0 data s.dbuf := by
  rw [finish_dbuf, setRlen_dbuf, setDbuf_dbuf, h.moved.dbuf]
  rfl

end

/-- A write inside the RTC's registers changes nothing outside the registers written. -/
theorem onlyWritten_rtc {s t : State} {reg : Byte} {v : List Byte} (hr : reg.toNat + v.length ≤ 0x40)
    (hd : t.env.devRegs = regsAfterWrite s.env Config.rtcAddr (reg :: v)) :
    OnlyWritten s t Config.rtcAddr reg v.length := by
  intro x hx
  rw [hd, regsAfterWrite_rtc hr]
  exact storeBytes_read_other _ _ _ _ hx

/-- A read changes no known byte, and nothing outside the registers read. -/
theorem onlyRead_of_regsAfterRead {s t : State} {a : SlaveAddr} {reg : Byte} {n : Nat} {raw : List Byte}
    (hn : n ≤ 256) (hl : raw.length ≤ n)
    (hd : t.env.devRegs = regsAfterRead s.env a reg (readReturned s.env a reg n raw)) : OnlyRead s t a reg n := by
  refine ⟨fun x b hb => ?_, fun x hx => ?_⟩ <;> rw [hd]
  · exact regsAfterRead_known _ _ _ _ _ (hl.trans hn) _ _ hb
  · exact regsAfterRead_others _ _ _ _ _ fun i hi => hx i (by rw [readReturned_length] at hi; omega)

/-! ### setDate (R234) -/

/-- The number that two bytes make, the high byte first. -/
theorem toNat_append_bytes (high low : Byte) : (high ++ low : Half).toNat = high.toNat * 256 + low.toNat := by
  rw [BitVec.toNat_append, Nat.shiftLeft_eq, Nat.mul_comm, ← Nat.two_pow_add_eq_or_of_lt low.isLt]

/-- R29: the year offset is stored low byte first. -/
theorem calendarYear_toNat (d : Vector Byte 64) : (calendarYear d).toNat = d[7].toNat * 256 + d[6].toNat :=
  toNat_append_bytes _ _

/-- Settles O43: one granted write of `calendarToWire`, whose seven bytes are those of R234. -/
theorem setDateWritesSevenRegisters : Obligations.SetDateWritesSevenRegisters := by
  intro s r _ hg
  obtain ⟨u, hw, ht, -, hd⟩ := memWrite_granted (slave := Config.rtcAddr) (reg := RtcReg.seconds.addr)
    (v := calendarToWire s.dbuf) (writeGranted_beginCommand hg)
  refine ⟨finish u, congrArg Host.Outcome.next (runCommand_ok hw), ?_, ht.results_finish, ht.sameRegisters_finish,
    onlyWritten_rtc (by simp [RtcReg.addr, calendarToWire]) hd⟩
  rw [ht.history_finish, ← calendarYear_toNat]
  rfl

/-! ### readDate (R235) -/

/-- R29: bytes stored from index `i` on, read back; the other bytes keep their values. -/
theorem mailboxStore_getElem (bs : List Byte) : ∀ (i : Nat) (d : Vector Byte 64) (j : Nat) (hj : j < 64),
    (mailboxStore i bs d)[j] = if i ≤ j then (bs[j - i]?).getD d[j] else d[j] := by
  induction bs with
  | nil => intro i d j hj; simp [mailboxStore]
  | cons b bs ih =>
    intro i d j hj
    rw [mailboxStore, ih (i + 1) _ j hj, Vector.getElem_setIfInBounds hj]
    rcases Nat.lt_trichotomy i j with hlt | rfl | hgt
    · obtain ⟨k, rfl⟩ := Nat.exists_eq_add_of_lt hlt
      simp [show i ≠ i + k + 1 by omega, show i ≤ i + k + 1 by omega, show i + k + 1 - i = k + 1 by omega,
        show i + 1 ≤ i + k + 1 by omega, show i + k + 1 - (i + 1) = k by omega]
    · simp
    · simp [show ¬i ≤ j by omega, show ¬i + 1 ≤ j by omega, show i ≠ j by omega]

/-- R235: the year of `readDate`, as a number. -/
theorem yearFromWire_toInt (century : Half) (b : Byte) :
    ((yearFromWire century b).toNat : Int) = ((bcdToDecimalOf b).toNat + century.toNat - 1900 : Int) % 65536 := by
  have := (bcdToDecimalOf b).isLt
  have := century.isLt
  unfold yearFromWire
  rw [BitVec.toNat_sub, BitVec.toNat_add, BitVec.toNat_setWidth, BitVec.toNat_ofNat]
  omega

/-- The two bytes of a half word, put together again. -/
theorem toNat_of_bytes (h : Half) : (h.extractLsb' 8 8).toNat * 256 + (h.extractLsb' 0 8).toNat = h.toNat := by
  have := h.isLt
  simp only [BitVec.extractLsb'_toNat, Nat.shiftRight_eq_div_pow]
  omega

theorem ofFn_getD {l : List Byte} {n : Nat} (h : l.length = n) (x : Byte) :
    List.ofFn (fun i : Fin n => l.getD i x) = l := by
  subst h
  exact List.ext_getElem (by simp) fun i _ hi => by simp

/-- The mailbox after a Calendar Value has been stored from DBUF[0] on: the eight bytes of R235, then what was there. -/
theorem mailboxStore_wireToCalendar (century : Half) (wire : List Byte) (d : Vector Byte 64) (j : Nat) (hj : j < 64) :
    (mailboxStore 0 (wireToCalendar century wire) d)[j] = ((wireToCalendar century wire)[j]?).getD d[j] := by
  rw [mailboxStore_getElem, if_pos (Nat.zero_le j), Nat.sub_zero]

/-- A granted `readDate` stores the Calendar Value of the seven bytes read, and RLEN 8. -/
theorem exec_readDate_granted {s : State} {r : Nat} (hg : ReadGranted s 0 r 7) :
    ∃ t wire, exec .readDate s = .next t ∧ wire.length = 7 ∧
      wire = readReturned s.env Config.rtcAddr 0x00 7 ((s.env.answer (r + 3)).data.take 7) ∧
      t.history = s.history ++ readEvents s r Config.rtcAddr 0x00 7 wire ∧ Results t 0x00 0 8 ∧
      t.dbuf = mailboxStore 0 (wireToCalendar s.century wire) s.dbuf ∧
      SameRegisters s { t with dbuf := s.dbuf } ∧ OnlyRead s t Config.rtcAddr 0x00 7 := by
  obtain ⟨u, wire, hlen, hr, ht, -, hd, hwire, -⟩ := memRead_granted (slave := Config.rtcAddr)
    (reg := RtcReg.seconds.addr) (readGranted_beginCommand hg)
  have hcentury : u.century = s.century := ht.moved.century
  have hexec : exec .readDate s = .next (finish (setRlen 8 (setDbuf (wireToCalendar s.century wire) u))) := by
    refine congrArg Host.Outcome.next (runCommand_ok ?_)
    simp only [hr, Res.andThen, hcentury]
  have hread : OnlyRead s u Config.rtcAddr RtcReg.seconds.addr 7 :=
    onlyRead_of_regsAfterRead (by omega) (List.length_take_le ..) (hd.trans (congrArg _ hwire))
  refine ⟨_, wire, hexec, hlen, hwire, ?_, ht.results_mailbox (by omega) _, ht.dbuf_mailbox _ _,
    ht.sameRegisters_mailbox _ _, ?_⟩ <;> generalize wireToCalendar s.century wire = data
  · exact ht.moved.history
  · exact ⟨hread.known, hread.others⟩

/-- Settles O44: the eight bytes of `wireToCalendar` are those of R235. -/
theorem readDateDecodesSevenRegisters : Obligations.ReadDateDecodesSevenRegisters := by
  intro s r _ hg
  obtain ⟨t, wire, hexec, hlen, hwire, hhist, hres, hdbuf, hregs, hread⟩ := exec_readDate_granted hg
  have hbytes := ofFn_getD hlen 0x00#8
  have stored (j : Nat) (hj : j < 64) : t.dbuf[j] = ((wireToCalendar s.century wire)[j]?).getD s.dbuf[j] := by
    simp only [hdbuf, mailboxStore_wireToCalendar]
  refine ⟨t, fun i => wire.getD i 0x00#8, hexec, hbytes.trans hwire, by rw [hbytes]; exact hhist, hres,
    stored 0 _, stored 1 _, stored 2 _, stored 3 _, stored 4 _, stored 5 _, ?_, fun i hi => ?_, hregs, hread⟩
  · rw [stored 6, stored 7, ← yearFromWire_toInt, ← toNat_of_bytes]
    rfl
  · exact (stored i i.isLt).trans (by simp [wireToCalendar, hi])

/-! ### The output commands (R236 to R238) -/

/-- The body of a command with a control byte writes that byte and then the shadow. -/
theorem exec_output {i : Instr} {s : State} {new : Byte} (h : controlByte s.params s.rtcCtrl i = some new) :
    exec i s = .next (runCommand (writeControl new) s) := by
  have hset (code : Byte) := controlByte_setFrequency s.params s.rtcCtrl code
  rcases outputCommand_of_controlByte h with rfl | rfl | ⟨code, rfl⟩
  · cases h; rfl
  · cases h; rfl
  · cases (hset code).symm.trans h; rfl

/-- Settles O46: one granted write of the control byte, after which the shadow takes it. -/
theorem outputCommandsWriteTheControlByte : Obligations.OutputCommandsWriteTheControlByte := by
  intro i s new r _ hnew hg
  obtain ⟨u, hw, ht, -, hd⟩ := memWrite_granted (slave := Config.rtcAddr) (reg := RtcReg.control.addr)
    (v := [new]) (writeGranted_beginCommand hg)
  have hrange : RtcReg.control.addr.toNat + [new].length ≤ 0x40 := by simp [RtcReg.addr]
  have hu := ht.sameRegisters_finish
  have hbody : writeControl new (beginCommand s) = .ok () { u with rtcCtrl := new } := by
    rw [writeControl, hw]
    rfl
  refine ⟨_, (exec_output hnew).trans (congrArg Host.Outcome.next (runCommand_ok hbody)), rfl, ht.history_finish,
    ht.results_finish, ⟨hu.busPath, hu.gpioAddr, hu.gpioResetPol, rfl, hu.century, hu.dbuf, hu.cmd, hu.host, hu.params,
      hu.oracle, hu.board, hu.handle, rfl⟩, onlyWritten_rtc hrange hd, ?_⟩
  show u.env.devRegs.read controlKey = some new
  rw [hd, regsAfterWrite_rtc hrange]
  exact Memory.read_write_same ..

end Sys2Proof.Machine
end

/-! ## Moves of the host, reset and setCentury (O7 to O10, O14, O54) -/

section
namespace Sys2Proof.Machine
open Sys2Proof.Safety Sys2Proof.Claims

theorem decode_of_decodeTableWord {nbits w : Nat} {i : Instr} (h : decodeTableWord nbits w = some i) :
    decode (BitVec.ofNat 32 (w % 2 ^ nbits)) = .ok i := by
  unfold decodeTableWord at h
  split at h
  · next j hj => cases h; exact hj
  · cases h

theorem withFetchWord_busy (s : State) (nbits w : Nat) : (s.withFetchWord nbits w).busy = false := rfl

theorem withFetchWord_host (s : State) (nbits w : Nat) :
    (s.withFetchWord nbits w).host = .writeCmd (BitVec.ofNat 32 (w % 2 ^ nbits)) :: s.host := rfl

/-- The word fetched, taken and accepted leaves nothing of the fetching but the word in CMD and BUSY. -/
theorem acceptCommand_withFetchWord (s : State) (nbits w : Nat) :
    acceptCommand (BitVec.ofNat 32 (w % 2 ^ nbits)) (takeMove s.host (s.withFetchWord nbits w)) =
      { s with cmd := BitVec.ofNat 32 (w % 2 ^ nbits), busy := true } := rfl

/-- Settles O7: the step takes the word placed, and the port runs the command it decodes to. -/
theorem fetchedWordIsRunNext : Obligations.FetchedWordIsRunNext := by
  intro s nbits w i h
  rw [step_of_writeCmd (withFetchWord_busy s nbits w) (withFetchWord_host s nbits w), acceptCommand_withFetchWord]
  exact runPort_of_decode_ok (decode_of_decodeTableWord h)

/-- R286: an idle block with no move left keeps its state. -/
theorem step_of_no_move {s : State} (hbusy : s.busy = false) (hhost : s.host = []) : step s = .next s := by
  simp only [step, hbusy, hhost]

theorem step_of_storeDbuf {s : State} {i : Fin 64} {v : Byte} {rest : List HostMove} (hbusy : s.busy = false)
    (hhost : s.host = .storeDbuf i v :: rest) : step s = .next (hostStore i v (takeMove rest s)) := by
  simp only [step, hbusy, hhost]

theorem step_of_reset {s : State} {rest : List HostMove} (hbusy : s.busy = false) (hhost : s.host = .reset :: rest) :
    step s = .next (resetBlock (takeMove rest s)) := by
  simp only [step, hbusy, hhost]

/-- Settles O8: the two steps are `step_of_no_move` and `step_of_storeDbuf`; a store sets one element of the vector. -/
theorem hostStoresOneMailboxByte : Obligations.HostStoresOneMailboxByte := by
  refine ⟨fun s => step_of_no_move, fun s i v rest hbusy hhost => ?_⟩
  refine ⟨_, step_of_storeDbuf hbusy hhost, ?_, fun j hj => ?_, rfl⟩
  · exact Vector.getElem_set_self i.isLt
  · exact Vector.getElem_set_ne i.isLt j.isLt (fun h => hj (Fin.ext h.symm))

/-- Settles O9: the fields of `State.reset` (R36). -/
theorem resetValuesOfTheBlock : Obligations.ResetValuesOfTheBlock :=
  ⟨rfl, rfl, rfl, rfl, rfl, rfl, rfl, rfl, rfl, rfl, rfl⟩

/-- Settles O10: the move runs `resetBlock`, which keeps the parameters, the later moves and the devices. -/
theorem resetOfTheBlockLeavesTheDevices : Obligations.ResetOfTheBlockLeavesTheDevices := by
  intro s rest hbusy hhost
  exact ⟨_, step_of_reset hbusy hhost, rfl, rfl, rfl, rfl, rfl, rfl, rfl, rfl, rfl, rfl, rfl, rfl, rfl, rfl, rfl, rfl,
    rfl, rfl⟩

/-- Settles O14: BUSY is what `step` looks at first. -/
theorem noHostMoveWhileBusy : Obligations.NoHostMoveWhileBusy := by
  intro s hbusy
  simp only [step, hbusy]

/-- R94: OPC 0x39 ignores `A`; `B` is the high byte and `C` the low one. -/
theorem decode_setCentury (a high low : Byte) : decode (packWord 0x39 a high low) = .ok (.setCentury high low) := by
  simp [decode]

/-- Settles O54: the word by its fields, the constant as two bytes, and no field but the result registers besides. -/
theorem setCenturyStoresTheConstant : Obligations.SetCenturyStoresTheConstant := by
  intro a high low s
  exact ⟨decode_setCentury a high low, _, rfl, toNat_append_bytes high low, rfl⟩

end Sys2Proof.Machine
end

/-! ## Write transfers under `exact_prefix` (O60) -/

section
namespace Sys2Proof.Machine
open Sys2Proof.Safety Sys2Proof.Claims

/-- Under the register-block oracle a device takes the payload into its array, whatever its length (R60, R62). -/
theorem regsAfterWrite_registerBlock {e : Env} {a : SlaveAddr} (ho : e.oracle = .registerBlock)
    (hd : (deviceAt e.board a).isSome) (reg : Byte) (payload : List Byte) :
    regsAfterWrite e a (reg :: payload) = storeBytes a reg.toNat payload e.devRegs := by
  obtain ⟨dev, hdev⟩ := Option.isSome_iff_exists.1 hd
  simp only [regsAfterWrite, deviceTake, hdev, Env.setPointer_devRegs, deviceStore, if_pos ho]

theorem bytesTaken_exactPrefix {p : Params} (hp : p.shortWriteEffect = .exactPrefix) (d : Draw) (k len : Nat) :
    bytesTaken p d k len = k := by
  unfold bytesTaken
  split
  · next hk => exact hk.symm
  · rw [hp]

/-- Under `exact_prefix` a bound slave has taken the bytes that the transfer reports (R53, R60). -/
theorem busWrite_devRegs_exactPrefix {a : SlaveAddr} {s : State} (hs : s.handle = .bound a)
    (hp : s.params.shortWriteEffect = .exactPrefix) (buf : List Byte) :
    (busWrite buf s).2.env.devRegs = regsAfterWrite s.env a (buf.take (busWrite buf s).1) := by
  rw [busWrite_env hs, deviceTake_devRegs, bytesTaken_exactPrefix hp]
  exact regsAfterWrite_congr (Env.advance_oracle _) (Env.advance_board _) (Env.advance_devRegs _) _ _

/-- Settles O60: of `k` bytes reported the first is the address and the others are stored from there. -/
theorem writeTransferStoresConsecutively : Obligations.WriteTransferStoresConsecutively := by
  intro s slave reg payload hs ho hp hlen hdev k t hw
  have hd := busWrite_devRegs_exactPrefix hs hp (reg :: payload)
  rw [hw] at hd
  dsimp only at hd
  cases k with
  | zero =>
    rw [hd, List.take_zero, regsAfterWrite_nil]
    exact ⟨fun i _ hi => by omega, fun _ _ => rfl⟩
  | succ j =>
    have hj : (payload.take j).length = min j payload.length := List.length_take
    rw [hd, List.take_succ_cons, regsAfterWrite_registerBlock ho hdev]
    refine ⟨fun i hi hij => ?_, fun x hx => storeBytes_read_other _ _ _ _ fun i hi => hx i (by omega)⟩
    rw [storeBytes_read_stored slave _ _ _ i (by omega) (by omega), List.getElem_take]

end Sys2Proof.Machine
end

/-! ## Raw transfers and the RTC memory window, granted (O21, O23, O50, O51) -/

section
namespace Sys2Proof.Machine
open Sys2Proof.Safety Sys2Proof.Claims

/-! ### Legal operands -/

theorem slaveOperand_of_le {slave : Byte} (h : slave.toNat ≤ 0x7F) : slaveOperand slave = some (slave.setWidth 7) :=
  if_pos (decide_eq_true h)

theorem lenOperand_of_le {len : Byte} (h : len.toNat ≤ 63) : lenOperand len = some len.toNat :=
  if_pos (decide_eq_true h)

/-- R240's range check. -/
theorem inWindow_iff {p : Params} {address length : Byte} : inWindow p address length = true ↔
    address.toNat + length.toNat ≤ 0x3F ∧ (p.memLowBoundEnforced = true → 8 ≤ address.toNat) := by
  simp only [inWindow, Bool.and_eq_true, Bool.or_eq_true, Bool.not_eq_true', decide_eq_true_eq]
  refine and_congr Iff.rfl ?_
  cases p.memLowBoundEnforced <;> simp [Config.memLo]

theorem exec_i2cRead_legal {slave len : Byte} (hslave : slave.toNat ≤ 0x7F) (hlen : len.toNat ≤ 63) (reg : Byte)
    (s : State) : exec (.i2cRead slave reg len) s =
      .next (runCommand (fun s1 => deliver (memRead (slave.setWidth 7) reg len.toNat s1)) s) := by
  simp only [exec, execI2cRead, slaveOperand_of_le hslave, lenOperand_of_le hlen]

theorem exec_i2cWrite_legal {slave len : Byte} (hslave : slave.toNat ≤ 0x7F) (hlen : len.toNat ≤ 63) (reg : Byte)
    (s : State) : exec (.i2cWrite slave reg len) s =
      .next (runCommand (fun s1 => memWrite (slave.setWidth 7) reg (dbufPrefix len.toNat s1) s1) s) := by
  simp only [exec, execI2cWrite, slaveOperand_of_le hslave, lenOperand_of_le hlen]

/-- A command depends on its body at one state only. -/
theorem runCommand_congr {f g : State → Res Unit} {s : State} (h : f (beginCommand s) = g (beginCommand s)) :
    runCommand f s = runCommand g s := by
  rw [runCommand, runCommand, h]

theorem exec_readMemory_inWindow {address length : Byte} {s : State} (h : inWindow s.params address length = true) :
    exec (.readMemory address length) s =
      .next (runCommand (fun s1 => deliver (memRead Config.rtcAddr address length.toNat s1)) s) :=
  congrArg Host.Outcome.next (runCommand_congr (if_pos h))

theorem exec_writeMemory_inWindow {address length : Byte} {s : State} (h : inWindow s.params address length = true) :
    exec (.writeMemory address length) s =
      .next (runCommand (fun s1 => memWrite Config.rtcAddr address (dbufPrefix length.toNat s1) s1) s) :=
  congrArg Host.Outcome.next (runCommand_congr (if_pos h))

/-! ### A granted read, delivered -/

/-- R29: bytes delivered to the mailbox stand in DBUF[0..]; the other bytes keep their values. -/
theorem mailboxStore_zero_getElem (data : List Byte) (d : Vector Byte 64) (i : Fin 64) :
    (mailboxStore 0 data d)[i] = data.getD i.val d[i] := by
  rw [Fin.getElem_fin, mailboxStore_getElem data 0 d i.val i.isLt, if_pos (Nat.zero_le _), Nat.sub_zero]
  exact List.getD_eq_getElem?_getD.symm

/-- A command whose body delivers one granted read transaction stores the bytes returned, and RLEN counts them (R140,
R241). -/
theorem runCommand_deliver_granted {body : State → Res Unit} {a : SlaveAddr} {reg : Byte} {n r : Nat} {s : State}
    (hn : n ≤ 63) (hbody : body (beginCommand s) = deliver (memRead a reg n (beginCommand s)))
    (hg : ReadGranted s 0 r n) :
    ∃ data : List Byte, data.length = n ∧
      data = readReturned s.env a reg n ((s.env.answer (r + 3)).data.take n) ∧
      (runCommand body s).history = s.history ++ readEvents s r a reg n data ∧ Results (runCommand body s) 0x00 0 n ∧
      (∀ i : Fin 64, (runCommand body s).dbuf[i] = data.getD i.val s.dbuf[i]) ∧
      SameRegisters s { runCommand body s with dbuf := s.dbuf } ∧ OnlyRead s (runCommand body s) a reg n := by
  obtain ⟨u, data, hlen, hr, ht, -, hd, hdata, -⟩ := memRead_granted (slave := a) (reg := reg)
    (readGranted_beginCommand hg)
  have hread : OnlyRead s u a reg n :=
    onlyRead_of_regsAfterRead (by omega) (List.length_take_le ..) (hd.trans (congrArg _ hdata))
  rw [hr, deliver, hlen] at hbody
  rw [runCommand_ok hbody]
  refine ⟨data, hlen, hdata, ht.moved.history, ht.results_mailbox (by omega) data, fun i => ?_,
    ht.sameRegisters_mailbox n data, ⟨hread.known, hread.others⟩⟩
  rw [ht.dbuf_mailbox, mailboxStore_zero_getElem]

/-- Settles O21: with legal operands the command is a read transaction whose bytes are delivered. -/
theorem i2cReadDeliversTheBytes : Obligations.I2cReadDeliversTheBytes := by
  intro s slave reg len r _ hslave hlen hg
  obtain ⟨data, h⟩ := runCommand_deliver_granted
    (body := fun s1 => deliver (memRead (slave.setWidth 7) reg len.toNat s1)) hlen rfl hg
  exact ⟨_, data, exec_i2cRead_legal hslave hlen reg s, h⟩

/-- Settles O51: inside the window the command is a read transaction whose bytes are delivered. -/
theorem readMemoryDeliversTheBytes : Obligations.ReadMemoryDeliversTheBytes := by
  intro s address length r _ hsum hlow hg
  obtain ⟨data, h⟩ := runCommand_deliver_granted
    (body := fun s1 => deliver (memRead Config.rtcAddr address length.toNat s1)) (by omega) rfl hg
  exact ⟨_, data, exec_readMemory_inWindow (inWindow_iff.2 ⟨hsum, hlow⟩), h⟩

/-! ### A granted write of the mailbox -/

theorem dbufPrefix_length {n : Nat} (hn : n ≤ 64) (s : State) : (dbufPrefix n s).length = n := by
  rw [dbufPrefix, List.length_take, Vector.length_toList, Nat.min_eq_left hn]

theorem dbufPrefix_getElem {n i : Nat} {s : State} (h : i < (dbufPrefix n s).length) (hi : i < 64) :
    (dbufPrefix n s)[i] = s.dbuf[i] := by
  simp only [dbufPrefix, List.getElem_take, Vector.getElem_toList]

/-- A command whose body is one granted write transaction returns after it (R137). -/
theorem runCommand_memWrite_granted {body : State → Res Unit} {a : SlaveAddr} {reg : Byte} {v : List Byte} {s : State}
    {r : Nat} (hbody : body (beginCommand s) = memWrite a reg v (beginCommand s)) (hg : WriteGranted s 0 r v.length) :
    (runCommand body s).history = s.history ++ writeEvents s r a reg v (v.length + 1) ∧
      Results (runCommand body s) 0x00 0 0 ∧ SameRegisters s (runCommand body s) ∧
      (runCommand body s).env.devRegs = regsAfterWrite s.env a (reg :: v) := by
  obtain ⟨u, hw, ht, -, hd⟩ := memWrite_granted (slave := a) (reg := reg) (writeGranted_beginCommand hg)
  rw [runCommand_ok (hbody.trans hw)]
  exact ⟨ht.history_finish, ht.results_finish, ht.sameRegisters_finish, hd⟩

/-- Mailbox bytes written inside the RTC's registers stand there one after the other (R60). -/
theorem regsAfterWrite_rtc_stored {s : State} {reg : Byte} {n : Nat} (hr : reg.toNat + n ≤ 0x40) (hn : n ≤ 64)
    (i : Fin 64) (hi : i.val < n) :
    (regsAfterWrite s.env Config.rtcAddr (reg :: dbufPrefix n s)).read (regKey Config.rtcAddr (reg.toNat + i.val)) =
      some s.dbuf[i] := by
  have hlen := dbufPrefix_length hn s
  rw [regsAfterWrite_rtc (by omega), storeBytes_read_stored _ _ _ _ i.val (by omega) (by omega),
    dbufPrefix_getElem _ i.isLt]
  rfl

/-- Settles O50: inside the window the transfer stays inside the RTC's registers. -/
theorem writeMemorySendsTheMailbox : Obligations.WriteMemorySendsTheMailbox := by
  intro s address length r _ hsum hlow hg
  have hlen : (dbufPrefix length.toNat s).length = length.toNat := dbufPrefix_length (by omega) s
  obtain ⟨hhist, hres, hregs, hd⟩ := runCommand_memWrite_granted (v := dbufPrefix length.toNat s)
    (body := fun s1 => memWrite Config.rtcAddr address (dbufPrefix length.toNat s1) s1) rfl (by rwa [hlen])
  have honly := onlyWritten_rtc (by omega) hd
  rw [hlen] at hhist honly
  refine ⟨_, exec_writeMemory_inWindow (inWindow_iff.2 ⟨hsum, hlow⟩), hhist, hres, hregs, honly, fun i hi => ?_⟩
  rw [hd]
  exact regsAfterWrite_rtc_stored (by omega) (by omega) i hi

/-- What a write of an address byte and a payload does to the known registers, in the words of the statements: the rule
of `regsAfterWrite_cases`. -/
theorem writeEffect_of_regsAfterWrite {s t : State} {a : SlaveAddr} {reg : Byte} {v : List Byte}
    (hd : t.env.devRegs = regsAfterWrite s.env a (reg :: v)) : WriteEffect s t a reg v.length := by
  unfold WriteEffect OnlyWritten
  rw [hd]
  rcases regsAfterWrite_cases s.env a reg v with h | ⟨ho, hwhere, hforget⟩
  · exact .inl h
  · rw [hforget]
    exact .inr ⟨ho, hwhere, forgetSlave_read_same a _, fun _ => forgetSlave_read_other _⟩

/-- Settles O23: the transfer's effect is `regsAfterWrite_cases`; inside the RTC's registers every byte is stored. -/
theorem i2cWriteSendsTheMailbox : Obligations.I2cWriteSendsTheMailbox := by
  intro s slave reg len r _ hslave hlen hg
  have hplen : (dbufPrefix len.toNat s).length = len.toNat := dbufPrefix_length (by omega) s
  obtain ⟨hhist, hres, hregs, hd⟩ := runCommand_memWrite_granted (v := dbufPrefix len.toNat s)
    (body := fun s1 => memWrite (slave.setWidth 7) reg (dbufPrefix len.toNat s1) s1) rfl (by rwa [hplen])
  have heffect := writeEffect_of_regsAfterWrite hd
  rw [hplen] at hhist heffect
  refine ⟨_, exec_i2cWrite_legal hslave hlen reg s, hres, hregs, hhist, heffect, fun h0 => ?_, ?_⟩
  · rw [List.eq_nil_of_length_eq_zero (hplen.trans h0)] at hd
    exact hd.trans (deviceTake_address_devRegs s.env _ reg 1 _)
  · rintro rfl hr i hi
    rw [hd]
    exact regsAfterWrite_rtc_stored hr (by omega) i hi

end Sys2Proof.Machine
end

/-! ## A failed raw write (O24) -/

section
namespace Sys2Proof.Machine
open Sys2Proof.Safety Sys2Proof.Claims

section
variable {s u : State} {evs : List Event} (h : Transacted (beginCommand s) u evs)
include h

/-- A command that fails after transactions alone has changed the result registers only. -/
theorem Transacted.sameRegisters_postFailure (f : Failure) : SameRegisters s (postFailure f u) :=
  ⟨h.moved.busPath, h.moved.gpioAddr, h.moved.gpioResetPol, h.moved.rtcCtrl, h.moved.century, h.moved.dbuf,
    h.moved.cmd, h.moved.host, h.moved.params, h.oracle, h.board, h.handle, rfl⟩

theorem Transacted.results_busUnavailable : Results (postFailure .busUnavailable u) 0x01 0 0 := by
  refine ⟨rfl, h.moved.rval, ?_⟩
  rw [postFailure_rlen, Failure.rlenAfter, h.moved.rlen]
  rfl

theorem Transacted.results_shortTransfer {k : Nat} (hk : k < 256) (data : List Byte) :
    Results (postFailure (.shortTransfer k data) u) 0x02 0 k :=
  ⟨rfl, h.moved.rval, Nat.mod_eq_of_lt hk⟩

end

/-- The slave took the first `j` bytes of a write buffer: the address byte and `j - 1` of the payload. -/
theorem writeEffect_of_taken {s t : State} {a : SlaveAddr} {reg : Byte} {v : List Byte} {j : Nat}
    (hj : j ≤ v.length + 1) (hd : t.env.devRegs = regsAfterWrite s.env a ((reg :: v).take j)) :
    WriteEffect s t a reg (j - 1) := by
  cases j with
  | zero =>
    rw [List.take_zero, regsAfterWrite_nil] at hd
    exact .inl fun x _ => by rw [hd]
  | succ j =>
    have heffect := writeEffect_of_regsAfterWrite hd
    rwa [List.length_take, Nat.min_eq_left (by omega)] at heffect

/-- A command whose body is one write transaction fails with that transaction (R141, R272). -/
theorem runCommand_memWrite_failed {body : State → Res Unit} {a : SlaveAddr} {reg : Byte} {v : List Byte} {s : State}
    (hs : s.handle = .closed) (hv : v.length ≤ 63)
    (hbody : body (beginCommand s) = memWrite a reg v (beginCommand s)) (hfail : (runCommand body s).status ≠ 0x00) :
    SameRegisters s (runCommand body s) ∧
    ((Results (runCommand body s) 0x01 0 0 ∧ SameDevices s (runCommand body s)) ∨
      ∃ r k j, k ≤ v.length ∧ j ≤ v.length ∧ (s.params.shortWriteEffect = .exactPrefix → j = k - 1) ∧
        Results (runCommand body s) 0x02 0 k ∧ WriteEffect s (runCommand body s) a reg j ∧
        (runCommand body s).history = s.history ++ writeEvents s r a reg v k) := by
  rcases memWrite_cases (slave := a) (reg := reg) (v := v) (s := beginCommand s) hs with
    ⟨u, hw, ht, hd⟩ | ⟨r, -, u, hw, ht, hd⟩ | ⟨r, -, u, k, hk, j, hj, hw, ht, hprefix, hd⟩ | ⟨r, -, u, hw, -⟩
  · rw [runCommand_err (hbody.trans hw) ht.handle]
    exact ⟨ht.sameRegisters_postFailure _, .inl ⟨ht.results_busUnavailable, hd⟩⟩
  · rw [runCommand_err (hbody.trans hw) ht.handle]
    exact ⟨ht.sameRegisters_postFailure _, .inl ⟨ht.results_busUnavailable, hd⟩⟩
  · rw [runCommand_err (hbody.trans hw) ht.handle]
    refine ⟨ht.sameRegisters_postFailure _, .inr ⟨r, k, j - 1, hk, by omega, fun hp => ?_,
      ht.results_shortTransfer (by omega) [], writeEffect_of_taken hj hd, ht.moved.history⟩⟩
    rw [hprefix hp]
  · rw [runCommand_ok (hbody.trans hw)] at hfail
    exact absurd rfl hfail

/-- Settles O24: with legal operands the command is one write transaction of the mailbox bytes. -/
theorem i2cWriteFailureReportsTheCount : Obligations.I2cWriteFailureReportsTheCount := by
  intro s t slave reg len hs hslave hlen hexec hfail
  cases (exec_i2cWrite_legal hslave hlen reg s).symm.trans hexec
  have hplen : (dbufPrefix len.toNat s).length = len.toNat := dbufPrefix_length (by omega) s
  have hwrite := runCommand_memWrite_failed (v := dbufPrefix len.toNat s) hs (by omega) rfl hfail
  rwa [hplen] at hwrite

end Sys2Proof.Machine
end

/-! ## Refused opens (O17) -/

section
namespace Sys2Proof.Machine
open Sys2Proof.Safety Sys2Proof.Claims

/-- No open attempt can succeed: there is no path, or the environment refuses every attempt that R131 allows (R51). -/
def OpensRefused (s : State) : Prop :=
  s.busPath = .noPath ∨ ∀ j ≤ s.params.maxRetries, (s.env.answer j).ok = false

/-- A piece of a command that ended with its first open loop, which failed. -/
def EndsUnopened {α : Type} (s : State) (r : Res α) : Prop :=
  ∃ t, r = .err .busUnavailable t ∧
    Transacted s t (openEvents s.busPath s.params.retryDelay s.params.maxRetries false) ∧ t.env.devRegs = s.env.devRegs

/-- R278: the first failure ends the command. -/
theorem EndsUnopened.andThen {α β : Type} {s : State} {r : Res α} (h : EndsUnopened s r) (f : α → State → Res β) :
    EndsUnopened s (r.andThen f) := by
  obtain ⟨t, rfl, ht⟩ := h
  exact ⟨t, rfl, ht⟩

theorem EndsUnopened.deliver {s : State} {r : Res (List Byte)} (h : EndsUnopened s r) :
    EndsUnopened s (Machine.deliver r) := by
  obtain ⟨t, rfl, ht⟩ := h
  exact ⟨t, rfl, ht⟩

/-! ### Legal pins and ports -/

theorem resolvePortOf_of_le {port : Byte} (h : port.toNat ≤ 1) (base : Byte) :
    ∃ reg, resolvePortOf port base = some reg := by
  unfold resolvePortOf
  by_cases h0 : port = Port.portA.tag
  · exact ⟨_, if_pos h0⟩
  · have h1 : port = Port.portB.tag := by
      have hne : port.toNat ≠ 0 := fun he => h0 (BitVec.eq_of_toNat_eq he)
      exact BitVec.eq_of_toNat_eq (show port.toNat = 1 by omega)
    rw [if_neg h0, if_pos h1]
    exact ⟨_, rfl⟩

theorem regOfPin_of_le {pin : Byte} (hlo : 1 ≤ pin.toNat) (hhi : pin.toNat ≤ 16) (base : Byte) :
    ∃ reg bit, regOfPin base pin = some (reg, bit) := by
  have hpin : ∃ port bit, resolvePinOf pin = some (port, bit) := by
    unfold resolvePinOf
    split
    · exact ⟨_, _, rfl⟩
    · split
      · exact ⟨_, _, rfl⟩
      · omega
  obtain ⟨port, bit, hpin⟩ := hpin
  obtain ⟨reg, hreg⟩ := resolvePortOf_of_le (port := port.tag) (by cases port <;> decide) base
  exact ⟨reg, bit, by simp only [regOfPin, hpin, hreg]⟩

/-! ### Pieces of commands -/

section
variable {s : State} (hs : s.handle = .closed) (hr : OpensRefused s)
include hs hr

theorem memRead_unopened (a : SlaveAddr) (reg : Byte) (n : Nat) : EndsUnopened s (memRead a reg n s) :=
  memRead_refused hs hr

theorem memWrite_unopened (a : SlaveAddr) (reg : Byte) (v : List Byte) : EndsUnopened s (memWrite a reg v s) :=
  memWrite_refused hs hr

theorem gpioRead_unopened (reg : Byte) : EndsUnopened s (gpioRead reg s) :=
  (memRead_unopened hs hr _ _ _).andThen _

theorem gpioWrite_unopened (reg v : Byte) : EndsUnopened s (gpioWrite reg v s) :=
  memWrite_unopened hs hr _ _ _

theorem pinSet_unopened {pin : Byte} (hlo : 1 ≤ pin.toNat) (hhi : pin.toNat ≤ 16) (base value : Byte) :
    EndsUnopened s (pinSet base pin value s) := by
  obtain ⟨reg, bit, h⟩ := regOfPin_of_le hlo hhi base
  simp only [pinSet, h]
  exact (gpioRead_unopened hs hr reg).andThen _

theorem pinGet_unopened {pin : Byte} (hlo : 1 ≤ pin.toNat) (hhi : pin.toNat ≤ 16) (base : Byte) :
    EndsUnopened s (pinGet base pin s) := by
  obtain ⟨reg, bit, h⟩ := regOfPin_of_le hlo hhi base
  simp only [pinGet, h]
  exact (gpioRead_unopened hs hr reg).andThen _

theorem portWrite_unopened {port : Byte} (hport : port.toNat ≤ 1) (base value : Byte) :
    EndsUnopened s (portWrite base port value s) := by
  obtain ⟨reg, h⟩ := resolvePortOf_of_le hport base
  simp only [portWrite, h]
  exact gpioWrite_unopened hs hr reg value

theorem portRead_unopened {port : Byte} (hport : port.toNat ≤ 1) (base : Byte) :
    EndsUnopened s (portRead base port s) := by
  obtain ⟨reg, h⟩ := resolvePortOf_of_le hport base
  simp only [portRead, h]
  exact (gpioRead_unopened hs hr reg).andThen _

theorem writeControl_unopened (new : Byte) : EndsUnopened s (writeControl new s) :=
  (memWrite_unopened hs hr _ _ _).andThen _

theorem initSteps_unopened (flag : Bool) : EndsUnopened s (initSteps flag s) :=
  (gpioWrite_unopened hs hr _ _).andThen _

end

/-! ### The command -/

/-- A command whose body ended unopened, its address and reset policy latched before or not, ends with BusUnavailable
and nothing done (R271). -/
theorem exec_unopened {i : Instr} {s s1 : State} {body : State → Res Unit}
    (hexec : exec i s = .next (runCommand body s))
    (hs1 : s1 = { beginCommand s with gpioAddr := s1.gpioAddr, gpioResetPol := s1.gpioResetPol })
    (h : EndsUnopened s1 (body (beginCommand s))) :
    ∃ t, exec i s = .next t ∧ Results t 0x01 0 0 ∧ t.handle = .closed ∧ t.busy = false ∧ t.dbuf = s.dbuf ∧
      t.rtcCtrl = s.rtcCtrl ∧ SameDevices s t ∧
      t.history = s.history ++ openEvents s.busPath s.params.retryDelay s.params.maxRetries false := by
  obtain ⟨u, hbody, ht, hd⟩ := h
  rw [hs1] at ht hd
  refine ⟨_, hexec, ?_⟩
  rw [runCommand_err hbody ht.handle]
  refine ⟨⟨rfl, ht.moved.rval, ?_⟩, ht.handle, rfl, ht.moved.dbuf, ht.moved.rtcCtrl, hd, ht.moved.history⟩
  rw [postFailure_rlen, Failure.rlenAfter, ht.moved.rlen]
  rfl

theorem exec_acknowledgeInterrupts_legal {port reg : Byte}
    (h : resolvePortOf port GpioPair.interruptCapture.base = some reg) (s : State) :
    exec (.acknowledgeInterrupts port) s = .next (runCommand (gpioAcknowledge [reg]) s) := by
  simp only [exec, execAcknowledgeInterrupts, h]

theorem exec_initialize_legal {address : Byte} (h : address.toNat ≤ 0x7F) (flag : Byte) (s : State) :
    exec (.initializeGpio address flag) s = .next (runCommand
      (fun s1 => initSteps (boolOperand flag) (latchInit (address.setWidth 7) (boolOperand flag) s1)) s) := by
  simp only [exec, execInitialize, slaveOperand_of_le h]

theorem operands_of_wf_i2cRead {slave reg len : Byte} (h : (Instr.i2cRead slave reg len).wf = true) :
    slave.toNat ≤ 0x7F ∧ len.toNat ≤ 63 := by
  simp only [Instr.wf, Instr.operandFault] at h
  split at h
  · cases h
  · next ha =>
    split at h
    · cases h
    · next hl => exact ⟨by simpa [addressLegal] using ha, by simpa [lenLegal] using hl⟩

/-- Settles O17: with legal arguments every body begins with a transaction, whose open loop fails. -/
theorem refusedOpensEndInBusUnavailable : Obligations.RefusedOpensEndInBusUnavailable := by
  intro i s hs hi hrefused
  have hb : (beginCommand s).handle = .closed := hs
  have hr : OpensRefused (beginCommand s) := hrefused
  cases i
  case busSetup | setBit | testBit | resolvePin | resolvePort | bcdToDecimal | decimalToBcd | setCentury => cases hi
  case i2cRead slave reg len =>
    obtain ⟨ha, hl⟩ := operands_of_wf_i2cRead hi
    exact exec_unopened (exec_i2cRead_legal ha hl reg s) rfl (memRead_unopened hb hr _ _ _).deliver
  case i2cWrite slave reg len =>
    obtain ⟨ha, hl⟩ := operands_of_wf_i2cRead hi
    exact exec_unopened (exec_i2cWrite_legal ha hl reg s) rfl (memWrite_unopened hb hr _ _ _)
  case setPinDirection | setPinPolarity | setInterruptOnPin | setPinInterruptDefault | setPinInterruptType |
      setPinPullup | writePin =>
    obtain ⟨hlo, hhi⟩ := Bool.and_eq_true_iff.1 hi
    exact exec_unopened rfl rfl (pinSet_unopened hb hr (of_decide_eq_true hlo) (of_decide_eq_true hhi) _ _)
  case getPinDirection | getPinPolarity | getInterruptOnPin | getPinInterruptDefault | getPinInterruptType |
      getPinPullup | readPin =>
    obtain ⟨hlo, hhi⟩ := Bool.and_eq_true_iff.1 hi
    exact exec_unopened rfl rfl (pinGet_unopened hb hr (of_decide_eq_true hlo) (of_decide_eq_true hhi) _)
  case setPortDirection | setPortPolarity | setInterruptOnPort | setInterruptDefaults | setInterruptType |
      setPortPullups | writePort =>
    exact exec_unopened rfl rfl (portWrite_unopened hb hr (of_decide_eq_true hi) _ _)
  case getPortDirection | getPortPolarity | getInterruptOnPort | getInterruptDefaults | getInterruptType |
      getPortPullups | readInterruptStatus | readInterruptCapture | readPort | readOutputLatch =>
    exact exec_unopened rfl rfl (portRead_unopened hb hr (of_decide_eq_true hi) _)
  case acknowledgeInterrupts port =>
    obtain ⟨reg, hreg⟩ := resolvePortOf_of_le (of_decide_eq_true hi) GpioPair.interruptCapture.base
    exact exec_unopened (exec_acknowledgeInterrupts_legal hreg s) rfl ((gpioRead_unopened hb hr reg).andThen _)
  case initializeGpio address flag =>
    exact exec_unopened (exec_initialize_legal (of_decide_eq_true hi) flag s) rfl
      (initSteps_unopened (s := latchInit _ _ (beginCommand s)) hb hr _)
  case setDate => exact exec_unopened rfl rfl (memWrite_unopened hb hr _ _ _)
  case readDate => exact exec_unopened rfl rfl ((memRead_unopened hb hr _ _ _).andThen _)
  case enableOutput | disableOutput | setFrequency => exact exec_unopened rfl rfl (writeControl_unopened hb hr _)
  case writeMemory address length =>
    have hw : inWindow s.params address length = true := hi
    exact exec_unopened (exec_writeMemory_inWindow hw) rfl (memWrite_unopened hb hr _ _ _)
  case readMemory address length =>
    have hw : inWindow s.params address length = true := hi
    exact exec_unopened (exec_readMemory_inWindow hw) rfl (memRead_unopened hb hr _ _ _).deliver

end Sys2Proof.Machine
end

/-! ## What is written is read back (O52, O53) -/

section
namespace Sys2Proof.Machine
open Sys2Proof.Safety Sys2Proof.Claims

/-! ### Commands that returned -/

/-- A command whose STATUS is OK returned: its body succeeded (R8, R270). -/
theorem BodyOf.returned {i : Instr} {body : State → Res Unit} (hb : BodyOf i body) {s t : State}
    (hs : s.handle = .closed) (hexec : exec i s = .next (runCommand body s)) (h : exec i s = .next t)
    (hok : t.status = 0x00) : ∃ u, body (beginCommand s) = .ok () u ∧ t = finish u := by
  cases hexec.symm.trans h
  rcases runCommand_cases (hb.leaves hs).handle with ⟨u, hr, ht⟩ | ⟨f, u, -, ht⟩
  · exact ⟨u, hr, ht⟩
  · rw [ht] at hok
    exact absurd hok f.code_ne_ok

/-- A write transaction that succeeded gave the slave the whole buffer. -/
theorem memWrite_ok {a : SlaveAddr} {reg : Byte} {v : List Byte} {s t : State} (hs : s.handle = .closed)
    (h : memWrite a reg v s = .ok () t) :
    (∃ evs, Transacted s t evs) ∧ t.env.devRegs = regsAfterWrite s.env a (reg :: v) := by
  rcases memWrite_cases (slave := a) (reg := reg) (v := v) hs with ⟨t, h', -⟩ | ⟨r, -, t, h', -⟩ |
    ⟨r, -, t, k, -, j, -, h', -⟩ | ⟨r, -, t, h', ht, hd⟩ <;> rw [h] at h' <;> cases h'
  exact ⟨⟨_, ht⟩, hd⟩

/-- A read transaction that succeeded returned `n` bytes, each the environment's or one the oracle fixes. -/
theorem memRead_ok {a : SlaveAddr} {reg : Byte} {n : Nat} {s t : State} {data : List Byte} (hs : s.handle = .closed)
    (h : memRead a reg n s = .ok data t) :
    (∃ evs, Transacted s t evs) ∧ ∃ raw, raw.length = n ∧ data = readReturned s.env a reg n raw := by
  rcases memRead_cases (slave := a) (reg := reg) (n := n) hs with ⟨t, h', -⟩ | ⟨r, -, t, h', -⟩ | ⟨r, -, t, h', -⟩ |
    ⟨r, -, t, data, -, h', -⟩ | ⟨r, -, t, data, hlen, h', ht, -, raw, hdata⟩ <;> rw [h] at h' <;> cases h'
  refine ⟨⟨_, ht⟩, raw, ?_, hdata⟩
  rw [← hlen, hdata, readReturned_length]

/-- R239, R240: a `writeMemory` that returned was in the window, and stored the mailbox bytes. -/
theorem exec_writeMemory_ok {address length : Byte} {s t : State} (hs : s.handle = .closed)
    (h : exec (.writeMemory address length) s = .next t) (hok : t.status = 0x00) :
    inWindow s.params address length = true ∧
      t.env.devRegs = storeBytes Config.rtcAddr address.toNat (dbufPrefix length.toNat s) s.env.devRegs := by
  obtain ⟨u, hbody, rfl⟩ := (BodyOf.writeMemory address length).returned hs rfl h hok
  split at hbody
  · next hw =>
    have hsum := (inWindow_iff.1 hw).1
    have hlen := dbufPrefix_length_le length.toNat (beginCommand s)
    refine ⟨hw, (memWrite_ok (s := beginCommand s) hs hbody).2.trans (regsAfterWrite_rtc (by omega))⟩
  · cases hbody

/-- R241: a `readMemory` that returned delivered the bytes read. -/
theorem exec_readMemory_ok {address length : Byte} {s t : State} (hs : s.handle = .closed)
    (h : exec (.readMemory address length) s = .next t) (hok : t.status = 0x00) :
    ∃ raw, raw.length = length.toNat ∧
      t.dbuf = mailboxStore 0 (readReturned s.env Config.rtcAddr address length.toNat raw) s.dbuf := by
  obtain ⟨u, hbody, rfl⟩ := (BodyOf.readMemory address length).returned hs rfl h hok
  split at hbody
  · cases hr : memRead Config.rtcAddr address length.toNat (beginCommand s) with
    | ok data w =>
      obtain ⟨⟨evs, ht⟩, raw, hraw, hdata⟩ := memRead_ok (s := beginCommand s) hs hr
      rw [hr] at hbody
      cases hbody
      refine ⟨raw, hraw, ?_⟩
      rw [ht.dbuf_mailbox, hdata]
      rfl
    | err f w =>
      rw [hr] at hbody
      cases f <;> cases hbody
  · cases hbody

/-- R234: a `setDate` that returned stored the seven wire bytes. -/
theorem exec_setDate_ok {s t : State} (hs : s.handle = .closed) (h : exec .setDate s = .next t)
    (hok : t.status = 0x00) :
    t.century = s.century ∧
      t.env.devRegs = storeBytes Config.rtcAddr RtcReg.seconds.addr.toNat (calendarToWire s.dbuf) s.env.devRegs := by
  obtain ⟨u, hbody, rfl⟩ := BodyOf.setDate.returned hs rfl h hok
  obtain ⟨⟨evs, ht⟩, hd⟩ := memWrite_ok (s := beginCommand s) hs hbody
  exact ⟨ht.moved.century, hd.trans (regsAfterWrite_rtc (by simp [RtcReg.addr, calendarToWire]))⟩

/-- R235: a `readDate` that returned delivered the Calendar Value of the seven bytes read. -/
theorem exec_readDate_ok {s t : State} (hs : s.handle = .closed) (h : exec .readDate s = .next t)
    (hok : t.status = 0x00) :
    ∃ raw, raw.length = 7 ∧ t.dbuf = mailboxStore 0
      (wireToCalendar s.century (readReturned s.env Config.rtcAddr RtcReg.seconds.addr 7 raw)) s.dbuf := by
  obtain ⟨u, hbody, rfl⟩ := BodyOf.readDate.returned hs rfl h hok
  cases hr : memRead Config.rtcAddr RtcReg.seconds.addr 7 (beginCommand s) with
  | ok data w =>
    obtain ⟨⟨evs, ht⟩, raw, hraw, hdata⟩ := memRead_ok (s := beginCommand s) hs hr
    have hcentury : w.century = s.century := ht.moved.century
    rw [hr] at hbody
    cases hbody
    refine ⟨raw, hraw, ?_⟩
    rw [ht.dbuf_mailbox, hcentury, hdata]
    rfl
  | err f w =>
    rw [hr] at hbody
    cases hbody

/-! ### Reading what is known -/

/-- Bytes stored from a register on are what a read of as many bytes returns, under an oracle that fixes these registers
to what is known of them (R62). -/
theorem readReturned_stored {e : Env} {a : SlaveAddr} {dev : Device} {reg : Byte} {n : Nat} {v raw : List Byte}
    {m : Memory} (hdev : deviceAt e.board a = some dev) (hd : e.devRegs = storeBytes a reg.toNat v m)
    (hv : v.length = n) (hraw : raw.length = n) (hn : n ≤ 256)
    (hfixed : ∀ i < n, fixedByte e a dev n (reg.toNat + i) = e.devRegs.read (regKey a (reg.toNat + i))) :
    readReturned e a reg n raw = v := by
  simp only [readReturned, hdev]
  refine List.ext_getElem (by rw [readData_length, hraw, hv]) fun i hi hiv => ?_
  have hget := readData_get e a dev n raw reg.toNat i (by omega)
  rw [List.getElem?_eq_getElem hi, hfixed i (by omega), hd, storeBytes_read_stored a v _ m i (by omega) hiv] at hget
  exact Option.some_injective _ hget

theorem deviceAt_rtc (b : Board) : deviceAt b Config.rtcAddr = some .rtc := if_pos rfl

theorem fixedByte_registerBlock {e : Env} (ho : e.oracle = .registerBlock) (a : SlaveAddr) (dev : Device)
    (n reg : Nat) : fixedByte e a dev n reg = e.devRegs.read (regKey a reg) := by
  simp only [fixedByte, ho]

/-- R62: under the per-register oracle the RTC's memory window keeps what was written to it (log 8). -/
theorem fixedByte_window {e : Env} (ho : e.oracle = .perRegister) (a : SlaveAddr) (n : Nat) {reg : Nat}
    (hlo : 0x08 ≤ reg) (hhi : reg ≤ 0x3F) : fixedByte e a .rtc n reg = e.devRegs.read (regKey a reg) := by
  have hw : inRtcWindow reg = true := Bool.and_eq_true_iff.2 ⟨decide_eq_true hlo, decide_eq_true hhi⟩
  simp only [fixedByte, ho, hw, if_true]

/-- A mailbox into which `data` was stored begins with it. -/
theorem mailboxStore_take {data : List Byte} {n : Nat} (h : data.length = n) (hn : n ≤ 64) (d : Vector Byte 64) :
    (mailboxStore 0 data d).toList.take n = data := by
  refine List.ext_getElem (by rw [List.length_take, Vector.length_toList]; omega) fun i _ hi => ?_
  rw [List.getElem_take, Vector.getElem_toList, mailboxStore_getElem data 0 d i (by omega)]
  simp [hi]

/-- Settles O52: the write stores the bytes in the window, and the oracle returns what is known there. -/
theorem memoryWindowRoundTrip : Obligations.MemoryWindowRoundTrip := by
  intro s t u v address length mailbox hs horacle hwrite htok hu hread hvok
  obtain ⟨hw, hd⟩ := exec_writeMemory_ok hs hwrite htok
  obtain ⟨evs, l, hend⟩ := ended_of_exec hs hwrite
  subst hu
  obtain ⟨raw, hraw, hdbuf⟩ := exec_readMemory_ok (s := { t with dbuf := mailbox }) hend.handle hread hvok
  have hsum := (inWindow_iff.1 hw).1
  have hlen : (dbufPrefix length.toNat s).length = length.toNat := dbufPrefix_length (by omega) s
  have hback : readReturned t.env Config.rtcAddr address length.toNat raw = dbufPrefix length.toNat s := by
    refine readReturned_stored (deviceAt_rtc t.env.board) hd hlen hraw (by omega) fun i hi => ?_
    rcases horacle with ho | ⟨ho, hlow⟩
    · exact fixedByte_registerBlock (hend.oracle.trans ho) ..
    · have hlo := (inWindow_bounds hlow hw).1
      exact fixedByte_window (hend.oracle.trans ho) _ _ (by omega) (by omega)
  rw [hdbuf, hback]
  exact mailboxStore_take hlen (by omega) mailbox

/-! ### The calendar -/

/-- R233: the codec returns every decimal that two nibbles hold. -/
theorem bcdToDecimalOf_decimalToBcdOf {v : Byte} (h : v.toNat ≤ 159) : bcdToDecimalOf (decimalToBcdOf v) = v := by
  have hbcd : (decimalToBcdOf v).toNat = v.toNat / 10 * 16 + v.toNat % 10 := by
    rw [decimalToBcdOf, BitVec.toNat_ofNat]
    omega
  apply BitVec.eq_of_toNat_eq
  rw [bcdToDecimalOf, BitVec.toNat_ofNat, hbcd]
  omega

/-- R234, R244: the year is written modulo 100, which the codec returns. -/
theorem yearFromWire_decimalToBcdOf (century : Half) (y : Nat) :
    ((yearFromWire century (decimalToBcdOf (BitVec.ofNat 8 (y % 100)))).toNat : Int) =
      (y % 100 + century.toNat - 1900 : Int) % 65536 := by
  have hy : (BitVec.ofNat 8 (y % 100)).toNat = y % 100 := by
    rw [BitVec.toNat_ofNat]
    omega
  rw [yearFromWire_toInt, bcdToDecimalOf_decimalToBcdOf (by omega), hy]
  push_cast
  rfl

/-- Settles O53: the seven bytes stored are the seven read, and the codec returns every field within its range. -/
theorem calendarRoundTrip : Obligations.CalendarRoundTrip := by
  intro s t u v mailbox hs ho h0 h1 h2 h3 _ h4 h5 hset htok hu hread hvok
  obtain ⟨hcentury, hd⟩ := exec_setDate_ok hs hset htok
  obtain ⟨evs, l, hend⟩ := ended_of_exec hs hset
  subst hu
  obtain ⟨raw, hraw, hdbuf⟩ := exec_readDate_ok (s := { t with dbuf := mailbox }) hend.handle hread hvok
  have hback : readReturned t.env Config.rtcAddr RtcReg.seconds.addr 7 raw = calendarToWire s.dbuf :=
    readReturned_stored (deviceAt_rtc t.env.board) hd rfl hraw (by omega) fun i _ =>
      fixedByte_registerBlock (hend.oracle.trans ho) ..
  have stored (j : Nat) (hj : j < 64) :
      v.dbuf[j] = ((wireToCalendar s.century (calendarToWire s.dbuf))[j]?).getD mailbox[j] := by
    simp only [hdbuf, hback, hcentury, mailboxStore_wireToCalendar]
  have hmonth : (s.dbuf[5] + 1#8).toNat ≤ 159 := by
    rw [BitVec.toNat_add, BitVec.toNat_ofNat]
    omega
  refine ⟨(stored 0 _).trans (bcdToDecimalOf_decimalToBcdOf (by omega)),
    (stored 1 _).trans (bcdToDecimalOf_decimalToBcdOf (by omega)),
    (stored 2 _).trans (bcdToDecimalOf_decimalToBcdOf (by omega)),
    (stored 3 _).trans (bcdToDecimalOf_decimalToBcdOf (by omega)),
    (stored 4 _).trans (bcdToDecimalOf_decimalToBcdOf (by omega)), ?_, ?_⟩
  · calc v.dbuf[5]
      _ = bcdToDecimalOf (decimalToBcdOf (s.dbuf[5] + 1#8)) - 1#8 := stored 5 _
      _ = s.dbuf[5] := by rw [bcdToDecimalOf_decimalToBcdOf hmonth, BitVec.add_sub_cancel]
  · have hvyear : v.dbuf[7].toNat * 256 + v.dbuf[6].toNat = (yearFromWire s.century
        (decimalToBcdOf (BitVec.ofNat 8 ((calendarYear s.dbuf).toNat % 100)))).toNat := by
      rw [stored 6, stored 7]
      exact toNat_of_bytes _
    have hyear := yearFromWire_decimalToBcdOf s.century (calendarYear s.dbuf).toNat
    rw [← hvyear, calendarYear_toNat] at hyear
    push_cast at hyear
    exact hyear

end Sys2Proof.Machine
end

/-! ## The latched interrupt conditions (O38) -/

section
namespace Sys2Proof.Machine
open Sys2Proof.Safety Sys2Proof.Claims

/-! ### Granted transactions one after the other -/

section
variable {s t : State} {m j k r n : Nat} (hanswer : ∀ i, t.env.answer i = s.env.answer (i + m)) (hk : k = m + j)
include hanswer hk

/-- The answers from `k` on are those from `j` on once the first `m` have been used. -/
theorem answer_later (i : Nat) : t.env.answer (j + i) = s.env.answer (k + i) := by
  rw [hanswer, hk, Nat.add_assoc m, Nat.add_comm m]

variable {evs : List Event} (h : Transacted s t evs)
include h

theorem openGranted_later (hg : OpenGranted s k r) : OpenGranted t j r := by
  have hans := answer_later hanswer hk
  exact ⟨h.moved.busPath ▸ hg.path, h.moved.params ▸ hg.retries,
    fun i hi => (congrArg _ (hans i)).trans (hg.refused i hi),
    (congrArg _ (hans r)).trans hg.opened, (congrArg _ (hans (r + 1))).trans hg.bound⟩

theorem readGranted_later (hg : ReadGranted s k r n) : ReadGranted t j r n := by
  have hans := answer_later hanswer hk
  exact ⟨openGranted_later hanswer hk h hg.toOpenGranted, hg.address.trans_eq (congrArg _ (hans (r + 2)).symm),
    hg.bytes.trans_eq (congrArg (·.data.length) (hans (r + 3)).symm)⟩

theorem writeGranted_later (hg : WriteGranted s k r n) : WriteGranted t j r n := by
  have hans := answer_later hanswer hk
  exact ⟨openGranted_later hanswer hk h hg.toOpenGranted, hg.moved.trans_eq (congrArg _ (hans (r + 2)).symm)⟩

end

/-- A granted one-byte read of the expander (R170). -/
theorem gpioRead_granted {reg : Byte} {s : State} {r : Nat} (hg : ReadGranted s 0 r 1) :
    ∃ t v, gpioRead reg s = .ok v t ∧ Transacted s t (readEvents s r s.gpioAddr reg 1 [v]) ∧
      (∀ j, t.env.answer j = s.env.answer (j + (r + 4))) ∧
      (deviceAt s.env.board s.gpioAddr = some .gpio → LatchesRead s.env t.env (r + 4) reg 1) := by
  obtain ⟨t, data, hlen, hr, ht, hans, -, -, hlatch⟩ := memRead_granted (slave := s.gpioAddr) (reg := reg) hg
  obtain ⟨v, rfl⟩ := List.length_eq_one_iff.1 hlen
  refine ⟨t, v, ?_, ht, hans, hlatch⟩
  rw [gpioRead, hr]
  rfl

/-- Granted writes of the expander one after the other, each open granted at once (R209). -/
theorem gpioWrites_granted (ws : List (Byte × Byte)) : ∀ {s : State}, s.handle = .closed →
    (∀ j < ws.length, WriteGranted s (3 * j) 0 1) →
    ∃ t, gpioWrites ws s = .ok () t ∧
      Transacted s t (ws.flatMap fun w => writeEvents s 0 s.gpioAddr w.1 [w.2] 2) ∧
      ∀ j, t.env.answer j = s.env.answer (j + 3 * ws.length) := by
  induction ws with
  | nil => intro s hs _; exact ⟨s, rfl, Moved.closed_refl hs, fun _ => rfl⟩
  | cons w ws ih =>
    intro s _ hg
    obtain ⟨u, hw, hu, hans, -⟩ := memWrite_granted (slave := s.gpioAddr) (reg := w.1) (v := [w.2])
      (hg 0 (by simp))
    obtain ⟨t, hws, ht, hans'⟩ := ih hu.handle fun j hj =>
      writeGranted_later hans (by omega) hu (hg (j + 1) (by simpa using hj))
    refine ⟨t, ?_, ?_, fun j => ?_⟩
    · rw [gpioWrites, gpioWrite, hw]
      exact hws
    · have hevents := hu.trans ht
      simp only [writeEvents, hu.moved.busPath, hu.moved.params, hu.moved.gpioAddr] at hevents
      exact hevents
    · rw [hans', hans, List.length_cons, Nat.mul_succ, Nat.add_assoc]

/-! ### What a granted read does to a latch (R63) -/

section
variable {e e' : Env} {m n : Nat}

theorem LatchesRead.clears_portA (h : LatchesRead e e' m 0x10#8 n) (hn : 1 ≤ n) : e'.latchA = false := by
  obtain ⟨any, l, hl, -⟩ := h.latchA
  rw [hl, latchAfterRead, if_neg (by omega), if_pos rfl, if_neg (by omega)]

theorem LatchesRead.clears_portB (h : LatchesRead e e' m 0x11#8 n) (hn : 1 ≤ n) : e'.latchB = false := by
  obtain ⟨any, l, hl, -⟩ := h.latchB
  rw [hl, latchAfterRead, if_neg (by omega), if_pos rfl, if_neg (by omega)]

/-- A one-byte read of port B's capture register leaves port A's condition, unless one latches meanwhile (R64). -/
theorem LatchesRead.keeps_portA (h : LatchesRead e e' m 0x11#8 1) (hirq : ∀ j < m, (e.answer j).irqA = false) :
    e'.latchA = e.latchA := by
  obtain ⟨any, l, hl, hkeep⟩ := h.latchA
  rw [hl, latchAfterRead, if_neg (by decide), if_neg (by decide), if_neg (by decide), hkeep hirq]

end

/-! ### The commands -/

/-- R192, R208: the two commands that read a port's capture register make the same read. -/
theorem exec_captureRead {i : Instr} {port reg : Byte} {s u : State} {v : Byte}
    (hi : i = .acknowledgeInterrupts port ∨ i = .readInterruptCapture port)
    (hport : resolvePortOf port GpioPair.interruptCapture.base = some reg)
    (hr : gpioRead reg (beginCommand s) = .ok v u) : ∃ t, exec i s = .next t ∧ t.env = u.env := by
  rcases hi with rfl | rfl
  · have hbody : gpioAcknowledge [reg] (beginCommand s) = .ok () u := by
      simp only [gpioAcknowledge, hr, Res.andThen]
    exact ⟨_, (exec_acknowledgeInterrupts_legal hport s).trans (congrArg _ (runCommand_ok hbody)), rfl⟩
  · have hbody : portRead GpioPair.interruptCapture.base port (beginCommand s) =
        .ok () (setRval (v.setWidth 16) u) := by
      simp only [portRead, hport, hr, Res.andThen, returnValue]
    exact ⟨_, congrArg Host.Outcome.next (runCommand_ok hbody), rfl⟩

/-- The two reads that end an initialisation with the reset flag leave port B's condition cleared, and port A's unless
an interrupt latched during the second (R209). -/
theorem gpioAcknowledge_both_granted {s : State} (hdev : deviceAt s.env.board s.gpioAddr = some .gpio)
    (hA : ReadGranted s 0 0 1) (hB : ReadGranted s 4 0 1) :
    ∃ t, gpioAcknowledge resetAcknowledges s = .ok () t ∧ t.env.latchB = false ∧
      ((∀ j < 4, (s.env.answer (4 + j)).irqA = false) → t.env.latchA = false) := by
  obtain ⟨u, x, hx, hu, hans, hlatch⟩ := gpioRead_granted (reg := 0x10#8) hA
  obtain ⟨t, y, hy, -, -, hlatch'⟩ := gpioRead_granted (reg := 0x11#8)
    (readGranted_later hans rfl hu hB)
  have hlatchU := hlatch hdev
  have hlatchT := hlatch' (by rw [hu.board, hu.moved.gpioAddr]; exact hdev)
  refine ⟨t, ?_, hlatchT.clears_portB le_rfl, fun hirq => ?_⟩
  · show gpioAcknowledge [0x10#8, 0x11#8] s = _
    simp only [gpioAcknowledge, hx, hy, Res.andThen]
  · rw [hlatchT.keeps_portA fun j hj => ?_]
    · exact hlatchU.clears_portA le_rfl
    · rw [hans, Nat.add_comm]
      exact hirq j hj

/-- An initialisation with the reset flag makes thirteen granted writes and then the two reads (R209). -/
theorem initSteps_granted {s : State} (hdev : deviceAt s.env.board s.gpioAddr = some .gpio)
    (hw : ∀ j < 13, WriteGranted s (3 * j) 0 1)
    (hA : ReadGranted s 39 0 1) (hB : ReadGranted s 43 0 1) :
    ∃ t, initSteps true s = .ok () t ∧ t.env.latchB = false ∧
      ((∀ j < 4, (s.env.answer (43 + j)).irqA = false) → t.env.latchA = false) := by
  obtain ⟨u, hu, htu, hans, -⟩ := memWrite_granted (slave := s.gpioAddr) (reg := chipConfiguration)
    (v := [s.params.ioconInit]) (hw 0 (by omega))
  obtain ⟨v, hv, htv, hans'⟩ := gpioWrites_granted (resetWrites u.params) htu.handle fun j hj =>
    writeGranted_later hans (by omega) htu (hw (j + 1) (Nat.succ_lt_succ hj))
  have ht := htu.trans htv
  have hansv (j : Nat) : v.env.answer j = s.env.answer (j + 39) := by
    rw [hans', hans]
    rfl
  obtain ⟨t, hack, hlatchB, hlatchA⟩ := gpioAcknowledge_both_granted
    (by rw [ht.board, ht.moved.gpioAddr]; exact hdev)
    (readGranted_later hansv rfl ht hA) (readGranted_later hansv rfl ht hB)
  refine ⟨t, ?_, hlatchB, fun hirq => hlatchA fun j hj => ?_⟩
  · simp only [initSteps, gpioWrite, hu, hv, hack, Res.andThen, if_true]
  · rw [hansv, show 4 + j + 39 = 43 + j by omega]
    exact hirq j hj

/-- R209: zero keeps the address. -/
theorem latchInit_gpioAddr_eq {address : Byte} (h : address.toNat ≤ 0x7F) (flag : Bool) (s : State) :
    (latchInit (address.setWidth 7) flag s).gpioAddr = addressAfterInit s address := by
  have hzero : address.setWidth 7 = 0x00#7 ↔ address = 0 := by
    rw [← BitVec.toNat_inj, ← BitVec.toNat_inj, BitVec.toNat_setWidth, Nat.mod_eq_of_lt (by omega)]
    rfl
  simp only [latchInit_gpioAddr, addressAfterInit, hzero]

theorem openGranted_latchInit {a : SlaveAddr} {flag : Bool} {s : State} {j r : Nat} (h : OpenGranted s j r) :
    OpenGranted (latchInit a flag s) j r :=
  ⟨h.path, h.retries, h.refused, h.opened, h.bound⟩

theorem readGranted_latchInit {a : SlaveAddr} {flag : Bool} {s : State} {j r n : Nat} (h : ReadGranted s j r n) :
    ReadGranted (latchInit a flag s) j r n :=
  ⟨openGranted_latchInit h.toOpenGranted, h.address, h.bytes⟩

theorem writeGranted_latchInit {a : SlaveAddr} {flag : Bool} {s : State} {j r n : Nat} (h : WriteGranted s j r n) :
    WriteGranted (latchInit a flag s) j r n :=
  ⟨openGranted_latchInit h.toOpenGranted, h.moved⟩

/-- Settles O38: each command's reads are granted, and `LatchesRead` says what such a read clears. -/
theorem captureReadClearsTheLatch : Obligations.CaptureReadClearsTheLatch := by
  refine ⟨fun s i port r _ hi hport hdev _ hg => ?_, fun s slave reg len r _ hslave hlo hlen hdev _ hg => ?_,
    fun s address flag _ haddress hflag hdev hw hA hB => ?_⟩
  · obtain ⟨reg, hreg⟩ := resolvePortOf_of_le hport GpioPair.interruptCapture.base
    obtain ⟨u, v, hr, -, -, hlatch⟩ := gpioRead_granted (reg := reg) (readGranted_beginCommand hg)
    obtain ⟨t, hexec, henv⟩ := exec_captureRead hi hreg hr
    have hread := hlatch hdev
    rw [← henv] at hread
    refine ⟨t, hexec, ?_, ?_⟩ <;> rintro rfl <;> cases hreg
    · exact hread.clears_portA le_rfl
    · exact hread.clears_portB le_rfl
  · obtain ⟨u, data, -, hr, -, -, -, -, hlatch⟩ := memRead_granted (slave := slave.setWidth 7) (reg := reg)
      (readGranted_beginCommand hg)
    have hread := hlatch hdev
    have hbody : (fun s1 => deliver (memRead (slave.setWidth 7) reg len.toNat s1)) (beginCommand s) =
        .ok () (setRlen data.length (setDbuf data u)) := by
      simp only [hr, deliver]
    refine ⟨_, (exec_i2cRead_legal hslave hlen reg s).trans (congrArg _ (runCommand_ok hbody)), ?_, ?_⟩ <;> rintro rfl
    · exact hread.clears_portA hlo
    · exact hread.clears_portB hlo
  · have hbool : boolOperand flag = true := decide_eq_true hflag
    obtain ⟨t, hsteps, hlatchB, hlatchA⟩ := initSteps_granted
      (s := latchInit (address.setWidth 7) true (beginCommand s))
      (by rw [latchInit_gpioAddr_eq haddress]; exact hdev)
      (fun j hj => writeGranted_latchInit (writeGranted_beginCommand (hw j hj)))
      (readGranted_latchInit (readGranted_beginCommand hA)) (readGranted_latchInit (readGranted_beginCommand hB))
    have hexec := exec_initialize_legal haddress flag s
    rw [hbool] at hexec
    exact ⟨_, hexec.trans (congrArg _ (runCommand_ok hsteps)), hlatchB, hlatchA⟩

end Sys2Proof.Machine
end

/-! ## Reads of the RTC's control register (O59) -/

section
namespace Sys2Proof.Machine
open Sys2Proof.Safety Sys2Proof.Claims

/-- A read of `n` registers from `reg` on reaches the RTC's control register. -/
def ReachesControl (reg : Byte) (n : Nat) : Prop := ∃ j < n, regKey 0x68 (reg.toNat + j) = regKey 0x68 7

/-- The events contain a read transfer of the RTC that reaches its control register (R66). -/
def ReadsControl (evs : List Event) : Prop :=
  ∃ reg n k data, ReachesControl reg n ∧ [.busBind 0x68 true, .busWrite [reg] 1, .busRead n k data] <:+: evs

theorem not_readsControl_nil : ¬ ReadsControl [] := by
  rintro ⟨reg, n, k, data, -, h⟩
  cases List.eq_nil_of_infix_nil h

/-- Such a read begins at the first event, or it is in the rest. -/
theorem readsControl_cons {e : Event} {l : List Event} (h : ReadsControl (e :: l)) :
    (e = .busBind 0x68 true ∧ ∃ reg n k data, ReachesControl reg n ∧ [.busWrite [reg] 1, .busRead n k data] <+: l) ∨
      ReadsControl l := by
  obtain ⟨reg, n, k, data, hreach, h⟩ := h
  rcases List.infix_cons_iff.1 h with h | h
  · obtain ⟨he, h⟩ := List.cons_prefix_cons.1 h
    exact .inl ⟨he.symm, reg, n, k, data, hreach, h⟩
  · exact .inr ⟨reg, n, k, data, hreach, h⟩

/-- Events that neither contain such a read nor begin one, whatever follows them. -/
def NoControlRead (evs : List Event) : Prop := ∀ rest, ReadsControl (evs ++ rest) → ReadsControl rest

theorem NoControlRead.nil : NoControlRead [] := fun _ h => h

theorem NoControlRead.append {l l' : List Event} (h : NoControlRead l) (h' : NoControlRead l') :
    NoControlRead (l ++ l') := fun rest hrest => h' rest (h _ (by rwa [List.append_assoc] at hrest))

/-- An event that is not the bind of the RTC begins no read of it. -/
theorem NoControlRead.cons {e : Event} {l : List Event} (he : e ≠ .busBind 0x68 true) (h : NoControlRead l) :
    NoControlRead (e :: l) := fun rest hrest =>
  (readsControl_cons hrest).elim (fun hbind => absurd hbind.1 he) (h rest)

theorem NoControlRead.not_readsControl {l : List Event} (h : NoControlRead l) : ¬ ReadsControl l := fun hl =>
  not_readsControl_nil (h [] (by rwa [List.append_nil]))

/-! ### The events of a transaction -/

theorem noControlRead_openEvents (p : BusPath) (d r : Nat) (ok : Bool) : NoControlRead (openEvents p d r ok) := by
  induction r with
  | zero => exact .cons (by simp) .nil
  | succ r ih => exact .cons (by simp) (.cons (by simp) ih)

theorem noControlRead_unbound (a : SlaveAddr) : NoControlRead [.busBind a false, .busClose] :=
  .cons (by simp) (.cons (by simp) .nil)

/-- A transaction with one write transfer makes no read. -/
theorem noControlRead_write (a : SlaveAddr) (buf : List Byte) (k : Nat) :
    NoControlRead (boundEvents a [.busWrite buf k]) := by
  intro rest h
  rcases readsControl_cons h with ⟨-, reg, n, k, data, -, hprefix⟩ | h
  · simp [List.cons_prefix_cons] at hprefix
  · exact (NoControlRead.cons (by simp) (.cons (by simp) .nil)) rest h

/-- A read transaction with another slave, or of registers before or after the control register. -/
theorem noControlRead_read {a : SlaveAddr} {reg : Byte} {n : Nat} (h : a ≠ 0x68 ∨ ¬ ReachesControl reg n) (k : Nat)
    (data : List Byte) : NoControlRead (boundEvents a [.busWrite [reg] 1, .busRead n k data]) := by
  intro rest hrest
  rcases readsControl_cons hrest with ⟨hbind, reg', n', k', data', hreach, hprefix⟩ | hrest
  · simp [List.cons_prefix_cons] at hbind hprefix
    obtain ⟨rfl, rfl, -⟩ := hprefix
    rcases h with h | h
    · exact absurd hbind h
    · exact absurd hreach h
  · exact (NoControlRead.cons (by simp) (.cons (by simp) (.cons (by simp) .nil))) rest hrest

/-! ### Transactions -/

/-- From `s` to `t` there were only transactions, none of which read the control register. -/
def AvoidsControl (s t : State) : Prop := ∃ evs, Transacted s t evs ∧ NoControlRead evs

theorem AvoidsControl.refl {s : State} (hs : s.handle = .closed) : AvoidsControl s s :=
  ⟨[], Moved.closed_refl hs, .nil⟩

theorem AvoidsControl.trans {s t u : State} (h : AvoidsControl s t) (h' : AvoidsControl t u) : AvoidsControl s u := by
  obtain ⟨evs, ht, hn⟩ := h
  obtain ⟨evs', ht', hn'⟩ := h'
  exact ⟨_, ht.trans ht', hn.append hn'⟩

theorem AvoidsControl.handle {s t : State} (h : AvoidsControl s t) : t.handle = .closed := by
  obtain ⟨_, ht, -⟩ := h
  exact ht.handle

theorem AvoidsControl.gpioAddr {s t : State} (h : AvoidsControl s t) : t.gpioAddr = s.gpioAddr := by
  obtain ⟨_, ht, -⟩ := h
  exact ht.moved.gpioAddr

/-- A piece, then, after a success, another one. -/
theorem AvoidsControl.andThen {α β : Type} {s : State} {r : Res α} {f : α → State → Res β} (h : AvoidsControl s r.state)
    (hf : ∀ x t, AvoidsControl s t → AvoidsControl t (f x t).state) : AvoidsControl s (r.andThen f).state := by
  cases r with
  | ok x t => exact AvoidsControl.trans (t := t) h (hf x t h)
  | err g t => exact h

theorem memWrite_avoidsControl {a : SlaveAddr} {reg : Byte} {v : List Byte} {s : State} (hs : s.handle = .closed) :
    AvoidsControl s (memWrite a reg v s).state := by
  have hopen (r : Nat) (ok : Bool) := noControlRead_openEvents s.busPath s.params.retryDelay r ok
  rcases memWrite_cases (slave := a) (reg := reg) (v := v) hs with ⟨t, h, ht, -⟩ | ⟨r, -, t, h, ht, -⟩ |
    ⟨r, -, t, k, -, j, -, h, ht, -⟩ | ⟨r, -, t, h, ht, -⟩ <;> rw [h]
  · exact ⟨_, ht, hopen _ _⟩
  · exact ⟨_, ht, (hopen _ _).append (noControlRead_unbound a)⟩
  · exact ⟨_, ht, (hopen _ _).append (noControlRead_write _ _ _)⟩
  · exact ⟨_, ht, (hopen _ _).append (noControlRead_write _ _ _)⟩

theorem memRead_avoidsControl {a : SlaveAddr} {reg : Byte} {n : Nat} {s : State} (hs : s.handle = .closed)
    (hreg : a ≠ 0x68 ∨ ¬ ReachesControl reg n) : AvoidsControl s (memRead a reg n s).state := by
  have hopen (r : Nat) (ok : Bool) := noControlRead_openEvents s.busPath s.params.retryDelay r ok
  rcases memRead_cases (slave := a) (reg := reg) (n := n) hs with ⟨t, h, ht, -⟩ | ⟨r, -, t, h, ht, -⟩ |
    ⟨r, -, t, h, ht, -⟩ | ⟨r, -, t, data, -, h, ht, -⟩ | ⟨r, -, t, data, -, h, ht, -⟩ <;> rw [h]
  · exact ⟨_, ht, hopen _ _⟩
  · exact ⟨_, ht, (hopen _ _).append (noControlRead_unbound a)⟩
  · exact ⟨_, ht, (hopen _ _).append (noControlRead_write _ _ _)⟩
  · exact ⟨_, ht, (hopen _ _).append (noControlRead_read hreg _ _)⟩
  · exact ⟨_, ht, (hopen _ _).append (noControlRead_read hreg _ _)⟩

/-- Registers 0x00 to 0x06, and those from 0x08 to 0x3F, are none of them the control register. -/
theorem not_reachesControl {reg : Byte} {n : Nat} (h : reg.toNat + n ≤ 7 ∨ 8 ≤ reg.toNat ∧ reg.toNat + n ≤ 0x3F) :
    ¬ ReachesControl reg n := by
  rintro ⟨j, hj, hkey⟩
  have := regKey_inj.1 hkey
  omega

/-! ### The driver templates, with GPIOADDR not the RTC's address -/

theorem gpioRead_avoidsControl {reg : Byte} {s : State} (hs : s.handle = .closed) (hg : s.gpioAddr ≠ 0x68) :
    AvoidsControl s (gpioRead reg s).state :=
  (memRead_avoidsControl hs (.inl hg)).andThen fun _ _ h => .refl h.handle

theorem gpioWrite_avoidsControl {reg v : Byte} {s : State} (hs : s.handle = .closed) :
    AvoidsControl s (gpioWrite reg v s).state :=
  memWrite_avoidsControl hs

theorem gpioWrites_avoidsControl (ws : List (Byte × Byte)) : ∀ {s : State}, s.handle = .closed →
    AvoidsControl s (gpioWrites ws s).state := by
  induction ws with
  | nil => intro s hs; exact .refl hs
  | cons w ws ih => intro s hs; exact (gpioWrite_avoidsControl hs).andThen fun _ _ h => ih h.handle

theorem gpioAcknowledge_avoidsControl (regs : List Byte) : ∀ {s : State}, s.handle = .closed → s.gpioAddr ≠ 0x68 →
    AvoidsControl s (gpioAcknowledge regs s).state := by
  induction regs with
  | nil => intro s hs _; exact .refl hs
  | cons reg regs ih =>
    intro s hs hg
    exact (gpioRead_avoidsControl hs hg).andThen fun _ _ h => ih h.handle (h.gpioAddr ▸ hg)

theorem pinSet_avoidsControl {base pin value : Byte} {s : State} (hs : s.handle = .closed) (hg : s.gpioAddr ≠ 0x68) :
    AvoidsControl s (pinSet base pin value s).state := by
  unfold pinSet
  split
  · exact .refl hs
  · exact (gpioRead_avoidsControl hs hg).andThen fun _ _ h => gpioWrite_avoidsControl h.handle

theorem portWrite_avoidsControl {base port value : Byte} {s : State} (hs : s.handle = .closed) :
    AvoidsControl s (portWrite base port value s).state := by
  unfold portWrite
  split
  · exact .refl hs
  · exact gpioWrite_avoidsControl hs

theorem initSteps_avoidsControl {flag : Bool} {s : State} (hs : s.handle = .closed) (hg : s.gpioAddr ≠ 0x68) :
    AvoidsControl s (initSteps flag s).state := by
  refine (gpioWrite_avoidsControl hs).andThen fun _ t h => ?_
  split
  · exact (gpioWrites_avoidsControl _ h.handle).andThen fun _ _ h' =>
      gpioAcknowledge_avoidsControl _ h'.handle (h'.gpioAddr ▸ h.gpioAddr ▸ hg)
  · exact .refl h.handle

/-! ### Commands -/

/-- What the history gained from `s` to `t` holds no read of the control register. -/
def GainsNoControlRead (s t : State) : Prop := ∃ evs, t.history = s.history ++ evs ∧ NoControlRead evs

theorem AvoidsControl.gains {s t : State} (h : AvoidsControl s t) : GainsNoControlRead s t := by
  obtain ⟨evs, ht, hn⟩ := h
  exact ⟨evs, ht.moved.history, hn⟩

theorem GainsNoControlRead.of_history_eq {s t t' : State} (h : GainsNoControlRead s t) (ht : t'.history = t.history) :
    GainsNoControlRead s t' := by
  unfold GainsNoControlRead
  rw [ht]
  exact h

/-- Register updates after a success. -/
theorem AvoidsControl.andThen_update {α : Type} {s : State} {r : Res α} (h : AvoidsControl s r.state)
    (post : α → State → State) (hpost : ∀ x u, (post x u).history = u.history) :
    GainsNoControlRead s (r.andThen fun x u => .ok () (post x u)).state := by
  cases r with
  | ok x u => exact h.gains.of_history_eq (hpost x u)
  | err f u => exact h.gains

theorem BodyOf.gainsNoControlRead {i : Instr} {body : State → Res Unit} (hb : BodyOf i body) {s : State}
    (hs : s.handle = .closed) (hlow : s.params.memLowBoundEnforced = true) (hg : s.gpioAddr ≠ 0x68)
    (hraw : ∀ a r n, i ≠ .i2cRead a r n) (hinit : ∀ f, i ≠ .initializeGpio 0x68 f) :
    GainsNoControlRead s (body s).state := by
  have refl : GainsNoControlRead s s := (AvoidsControl.refl hs).gains
  cases hb with
  | value | rejected | path | century => exact refl
  | rawRead ha hn => exact absurd rfl (hraw _ _ _)
  | rawWrite ha hn => exact (memWrite_avoidsControl hs).gains
  | pinSet base pin value => exact (pinSet_avoidsControl hs hg).gains
  | pinGet base pin =>
    unfold Machine.pinGet
    split
    · exact refl
    · exact (gpioRead_avoidsControl hs hg).andThen_update (fun x u => setRval _ u) fun _ _ => rfl
  | portWrite base port value => exact (portWrite_avoidsControl hs).gains
  | portRead base port =>
    unfold Machine.portRead
    split
    · exact refl
    · exact (gpioRead_avoidsControl hs hg).andThen_update (fun x u => setRval _ u) fun _ _ => rfl
  | acknowledge regs => exact (gpioAcknowledge_avoidsControl regs hs hg).gains
  | @initializeGpio address flag a ha =>
    have haddr : (latchInit a (boolOperand flag) s).gpioAddr ≠ 0x68 := by
      rw [latchInit_gpioAddr]
      split
      · exact hg
      · exact slaveOperand_ne_rtc ha fun h => hinit flag (h ▸ rfl)
    exact (initSteps_avoidsControl (s := latchInit a (boolOperand flag) s) hs haddr).gains
  | setDate => exact (memWrite_avoidsControl hs).gains
  | readDate =>
    exact (memRead_avoidsControl hs (.inr (not_reachesControl (.inl (by decide))))).andThen_update
      (fun wire u => setRlen 8 (setDbuf (wireToCalendar u.century wire) u)) fun _ _ => by
        rw [setRlen_history, setDbuf_history]
  | control hnew =>
    exact (memWrite_avoidsControl hs).andThen_update (fun _ u => { u with rtcCtrl := _ }) fun _ _ => rfl
  | writeMemory address length =>
    dsimp only
    split
    · exact (memWrite_avoidsControl hs).gains
    · exact refl
  | readMemory address length =>
    dsimp only
    split
    · next hw =>
      obtain ⟨d, n, hd, -⟩ := deliver_state (memRead Config.rtcAddr address length.toNat s)
      rw [hd]
      exact (memRead_avoidsControl hs (.inr (not_reachesControl (.inr (inWindow_bounds hlow hw))))).gains
    · exact refl

/-- Settles O59: no body but that of `i2cRead` gains a read of the control register, and the end of a command adds no
event. -/
theorem noDriverCommandReadsTheControlRegister : Obligations.NoDriverCommandReadsTheControlRegister := by
  intro i s t hs hlow hg hraw hinit hexec evs hevs reg n hreach pre post k data heq
  obtain ⟨body, hb, he⟩ := exec_body i
  obtain ⟨evs', hhist, hn⟩ := hb.gainsNoControlRead (s := beginCommand s) hs hlow hg hraw hinit
  cases (he s).symm.trans hexec
  have hend : (runCommand body s).history = (body (beginCommand s)).state.history := by
    rcases runCommand_cases (hb.leaves hs).handle with ⟨u, hr, ht⟩ | ⟨f, u, hr, ht⟩ <;> rw [hr, ht] <;> rfl
  have hsame : evs' = evs := List.append_cancel_left (hhist.symm.trans (hend.symm.trans hevs))
  subst hsame
  exact hn.not_readsControl ⟨reg, n, k, data, hreach, pre, post, heq.symm⟩

end Sys2Proof.Machine
end

/-! ## Encoding (O1 to O5)

What the masks of the opcode table select of a word; then once, in `decode_case`, all that the decoder can answer. -/

section
namespace Sys2Proof
open Sys2Proof.Claims

/-! ### Fields and masks -/

@[simp] theorem fieldOpc_and (v w : Word) : fieldOpc (v &&& w) = fieldOpc v &&& fieldOpc w := BitVec.extractLsb'_and
@[simp] theorem fieldA_and (v w : Word) : fieldA (v &&& w) = fieldA v &&& fieldA w := BitVec.extractLsb'_and
@[simp] theorem fieldB_and (v w : Word) : fieldB (v &&& w) = fieldB v &&& fieldB w := BitVec.extractLsb'_and
@[simp] theorem fieldC_and (v w : Word) : fieldC (v &&& w) = fieldC v &&& fieldC w := BitVec.extractLsb'_and

/-- R90: a word is its four fields. -/
theorem packWord_fields (w : Word) : packWord (fieldOpc w) (fieldA w) (fieldB w) (fieldC w) = w := by
  refine BitVec.eq_of_getLsbD_eq fun k hk => ?_
  rw [packWord_bit]
  simp only [fieldOpc, fieldA, fieldB, fieldC, BitVec.getLsbD_extractLsb']
  grind

theorem eq_of_fields {v w : Word} (hopc : fieldOpc v = fieldOpc w) (ha : fieldA v = fieldA w)
    (hb : fieldB v = fieldB w) (hc : fieldC v = fieldC w) : v = w := by
  rw [← packWord_fields v, hopc, ha, hb, hc, packWord_fields]

theorem and_0xFF (b : Byte) : b &&& 0xFF#8 = b := BitVec.and_allOnes

/-- The mask of the rows of R94 selects OPC. -/
theorem and_opcodeMask (w : Word) : w &&& 0xFF000000#32 = packWord (fieldOpc w) 0x00#8 0x00#8 0x00#8 := by
  rw [show 0xFF000000#32 = packWord 0xFF#8 0x00#8 0x00#8 0x00#8 by decide]
  apply eq_of_fields <;> simp [and_0xFF]

/-- The mask of the rows of R95 selects OPC and the base in `A`. -/
theorem and_baseMask (w : Word) : w &&& 0xFFFF0000#32 = packWord (fieldOpc w) (fieldA w) 0x00#8 0x00#8 := by
  rw [show 0xFFFF0000#32 = packWord 0xFF#8 0xFF#8 0x00#8 0x00#8 by decide]
  apply eq_of_fields <;> simp [and_0xFF]

theorem eq_ofNat_of_toNat_eq {b : Byte} {n : Nat} (h : b.toNat = n) : b = BitVec.ofNat 8 n := by
  rw [← h, BitVec.ofNat_toNat, BitVec.setWidth_eq]

/-! ### The opcode map -/

/-- The values of OPC that select a command whatever `A` is (R94). -/
abbrev ownOpcodes : List Byte :=
  [0x01#8, 0x02#8, 0x03#8, 0x10#8, 0x11#8, 0x12#8, 0x13#8, 0x24#8, 0x25#8, 0x30#8, 0x31#8, 0x32#8, 0x33#8, 0x34#8,
    0x35#8, 0x36#8, 0x37#8, 0x38#8, 0x39#8]

/-- OPC and `A` select a command (R94, R95), whatever the operand checks of R92 say of it. -/
abbrev HasCommand (opc a : Byte) : Prop :=
  opc ∈ ownOpcodes ∨
  (opc ∈ [0x20#8, 0x21#8, 0x22#8] ∧ a ∈ [0x00#8, 0x02#8, 0x04#8, 0x06#8, 0x08#8, 0x0C#8, 0x12#8]) ∨
  (opc = 0x23#8 ∧ a ∈ [0x00#8, 0x02#8, 0x04#8, 0x06#8, 0x08#8, 0x0C#8, 0x0E#8, 0x10#8, 0x12#8, 0x14#8])

/-- R96: a row's mask covers OPC, and covers `A` too unless OPC alone selects the command. -/
theorem row_hasCommand : ∀ x ∈ opcodeTable, fieldOpc x.mask = 0xFF#8 ∧
    (fieldOpc x.bits ∈ ownOpcodes ∨ (fieldA x.mask = 0xFF#8 ∧ HasCommand (fieldOpc x.bits) (fieldA x.bits))) := by
  decide

theorem hasCommand_of_row {w : Word} {x : OpcodeRow} (hx : x ∈ opcodeTable) (h : w &&& x.mask = x.bits) :
    HasCommand (fieldOpc w) (fieldA w) := by
  obtain ⟨hopc, hrow⟩ := row_hasCommand x hx
  have ho : fieldOpc w = fieldOpc x.bits := by rw [← h, fieldOpc_and, hopc, and_0xFF]
  rw [ho]
  rcases hrow with hown | ⟨hmask, hbase⟩
  · exact .inl hown
  · have ha : fieldA w = fieldA x.bits := by rw [← h, fieldA_and, hmask, and_0xFF]
    rwa [ha]

theorem hasCommand_of_legalFields {opc a b c : Byte} (h : LegalFields opc a b c) : HasCommand opc a := by
  rcases h with h | ⟨h, -⟩ | ⟨h, -⟩ | ⟨rfl, -⟩ | h | h
  · exact .inl ((show _ ⊆ ownOpcodes by decide) h)
  · exact .inl ((show _ ⊆ ownOpcodes by decide) h)
  · exact .inl ((show _ ⊆ ownOpcodes by decide) h)
  · exact .inl (by decide)
  · exact .inr (.inl h)
  · exact .inr (.inr h)

/-- `w` selects the row of the command that the opcode table names `m` (R96). -/
abbrev SelectsRowOf (w : Word) (m : String) : Prop := ∃ x ∈ opcodeTable, x.mnemonic = m ∧ w &&& x.mask = x.bits

/-- The row of a command that OPC alone selects. -/
theorem row_of_opcode {w : Word} {m : String} {n : Nat} (hopc : (fieldOpc w).toNat = n)
    (hrow : ⟨m, packWord (BitVec.ofNat 8 n) 0x00#8 0x00#8 0x00#8, 0xFF000000#32⟩ ∈ opcodeTable) :
    SelectsRowOf w m :=
  ⟨_, hrow, rfl, by rw [and_opcodeMask, eq_ofNat_of_toNat_eq hopc]⟩

/-- The row of a command that OPC and the base select. -/
theorem row_of_base {w : Word} {m : String} {n k : Nat} (hopc : (fieldOpc w).toNat = n) (ha : (fieldA w).toNat = k)
    (hrow : ⟨m, packWord (BitVec.ofNat 8 n) (BitVec.ofNat 8 k) 0x00#8 0x00#8, 0xFFFF0000#32⟩ ∈ opcodeTable) :
    SelectsRowOf w m :=
  ⟨_, hrow, rfl, by rw [and_baseMask, eq_ofNat_of_toNat_eq hopc, eq_ofNat_of_toNat_eq ha]⟩

/-! ### Operand checks -/

@[simp] theorem wf_i2cRead (slave reg len : Byte) :
    (Instr.i2cRead slave reg len).wf = (addressLegal slave && lenLegal len) := by
  cases ha : addressLegal slave <;> cases hl : lenLegal len <;> simp [Instr.wf, Instr.operandFault, ha, hl]
@[simp] theorem wf_i2cWrite (slave reg len : Byte) :
    (Instr.i2cWrite slave reg len).wf = (addressLegal slave && lenLegal len) := wf_i2cRead slave reg len
@[simp] theorem wf_setBit (byte index value : Byte) : (Instr.setBit byte index value).wf = indexLegal index := by
  cases h : indexLegal index <;> simp [Instr.wf, Instr.operandFault, h]
@[simp] theorem wf_testBit (byte index : Byte) : (Instr.testBit byte index).wf = indexLegal index :=
  wf_setBit byte index 0
@[simp] theorem wf_initializeGpio (busAddress resetFlag : Byte) :
    (Instr.initializeGpio busAddress resetFlag).wf = addressLegal busAddress := by
  cases h : addressLegal busAddress <;> simp [Instr.wf, Instr.operandFault, h]

/-- The commands that fail an operand check of R92. -/
inductive IllFormed : Instr → Prop
  | i2cRead {slave reg len : Byte} (h : addressLegal slave = false ∨ lenLegal len = false) :
    IllFormed (.i2cRead slave reg len)
  | i2cWrite {slave reg len : Byte} (h : addressLegal slave = false ∨ lenLegal len = false) :
    IllFormed (.i2cWrite slave reg len)
  | setBit {byte index value : Byte} (h : indexLegal index = false) : IllFormed (.setBit byte index value)
  | testBit {byte index : Byte} (h : indexLegal index = false) : IllFormed (.testBit byte index)
  | initializeGpio {address flag : Byte} (h : addressLegal address = false) : IllFormed (.initializeGpio address flag)

theorem illFormed_of_wf_eq_false {i : Instr} (h : i.wf = false) : IllFormed i := by
  cases i
  case i2cRead => exact .i2cRead (by rwa [wf_i2cRead, Bool.and_eq_false_iff] at h)
  case i2cWrite => exact .i2cWrite (by rwa [wf_i2cWrite, Bool.and_eq_false_iff] at h)
  case setBit => exact .setBit (by rwa [wf_setBit] at h)
  case testBit => exact .testBit (by rwa [wf_testBit] at h)
  case initializeGpio => exact .initializeGpio (by rwa [wf_initializeGpio] at h)
  all_goals cases h

theorem IllFormed.mnemonic {i : Instr} (h : IllFormed i) :
    i.mnemonic ∈ ["i2cRead", "i2cWrite", "setBit", "testBit", "initialize"] := by
  cases h <;> simp [Instr.mnemonic]

theorem checkOperands_cases (i : Instr) :
    (i.wf = true ∧ checkOperands i = .ok i) ∨ (i.wf = false ∧ ∃ r, checkOperands i = .error r) := by
  unfold checkOperands Instr.wf
  cases i.operandFault with
  | none => exact .inl ⟨rfl, rfl⟩
  | some r => exact .inr ⟨rfl, r, rfl⟩

theorem checkOperands_eq_ok_iff {i j : Instr} : checkOperands i = .ok j ↔ i.wf = true ∧ i = j := by
  rcases checkOperands_cases i with ⟨hwf, he⟩ | ⟨hwf, r, he⟩ <;> simp [hwf, he]

theorem checkOperands_isError_iff {i : Instr} : (∃ r, checkOperands i = .error r) ↔ i.wf = false := by
  rcases checkOperands_cases i with ⟨hwf, he⟩ | ⟨hwf, r, he⟩ <;> simp [hwf, he]

theorem checkOperands_of_wf {i : Instr} (h : i.wf = true) : checkOperands i = .ok i :=
  checkOperands_eq_ok_iff.2 ⟨h, rfl⟩

/-! ### All that the decoder can answer -/

/-- What an answer of the decoder on `w` can be: the operand check of a command whose row `w` selects, or an error where
OPC and `A` select no command. -/
inductive DecodeCase (w : Word) (answer : Except IllegalReason Instr) : Prop
  | command {i : Instr} (ha : answer = checkOperands i)
    (row : SelectsRowOf w i.mnemonic)
    (legal : LegalFields (fieldOpc w) (fieldA w) (fieldB w) (fieldC w) ↔ i.wf = true)
  | noCommand {r : IllegalReason} (ha : answer = .error r) (hno : ¬ HasCommand (fieldOpc w) (fieldA w))

/-- A command without an operand check. -/
theorem DecodeCase.ok {w : Word} {i : Instr} (hwf : i.wf = true)
    (row : SelectsRowOf w i.mnemonic)
    (legal : LegalFields (fieldOpc w) (fieldA w) (fieldB w) (fieldC w)) : DecodeCase w (.ok i) :=
  .command (checkOperands_of_wf hwf).symm row (iff_of_true legal hwf)

/-- A command without an operand check that OPC alone selects. -/
theorem DecodeCase.ok_of_opcode {w : Word} {i : Instr} {n : Nat} (hopc : (fieldOpc w).toNat = n) (hwf : i.wf = true)
    (hrow : ⟨i.mnemonic, packWord (BitVec.ofNat 8 n) 0x00#8 0x00#8 0x00#8, 0xFF000000#32⟩ ∈ opcodeTable)
    (hlegal : ∀ a b c, LegalFields (BitVec.ofNat 8 n) a b c) : DecodeCase w (.ok i) :=
  .ok hwf (row_of_opcode hopc hrow) (eq_ofNat_of_toNat_eq hopc ▸ hlegal ..)

/-- A command that OPC and the base select. -/
theorem DecodeCase.ok_of_base {w : Word} {i : Instr} {n k : Nat} (hopc : (fieldOpc w).toNat = n)
    (ha : (fieldA w).toNat = k) (hwf : i.wf = true)
    (hrow : ⟨i.mnemonic, packWord (BitVec.ofNat 8 n) (BitVec.ofNat 8 k) 0x00#8 0x00#8, 0xFFFF0000#32⟩ ∈ opcodeTable)
    (hlegal : ∀ b c, LegalFields (BitVec.ofNat 8 n) (BitVec.ofNat 8 k) b c) : DecodeCase w (.ok i) :=
  .ok hwf (row_of_base hopc ha hrow) (eq_ofNat_of_toNat_eq hopc ▸ eq_ofNat_of_toNat_eq ha ▸ hlegal ..)

/-- The branches of the decoder: five checked opcodes, three per-pin and per-port opcodes with seven bases, one with
ten, the unknown opcodes, and the rest, where OPC alone selects a command without a check. -/
theorem decode_case (w : Word) : DecodeCase w (decode w) := by
  unfold decode
  split
  case h_2 | h_3 | h_4 | h_5 | h_13 =>
    next hopc =>
      refine .command rfl (row_of_opcode hopc ?_) ?_
      · simp only [Instr.mnemonic]; decide
      · rw [eq_ofNat_of_toNat_eq hopc]
        simp [LegalFields, addressLegal, lenLegal, indexLegal]
  case h_8 | h_9 | h_10 =>
    next hopc =>
      simp only [decodePinSet, decodePinGet, decodePortWrite]
      split
      case h_8 => exact .noCommand rfl (by rw [eq_ofNat_of_toNat_eq hopc]; simp_all [← BitVec.toNat_inj])
      all_goals
        next ha =>
          refine .ok_of_base hopc ha rfl ?_ fun b c => by simp [LegalFields]
          simp only [Instr.mnemonic]; decide
  case h_11 hopc =>
    simp only [decodePortRead]
    split
    case h_11 => exact .noCommand rfl (by rw [eq_ofNat_of_toNat_eq hopc]; simp_all [← BitVec.toNat_inj])
    all_goals
      next ha =>
        refine .ok_of_base hopc ha rfl ?_ fun b c => by simp [LegalFields]
        simp only [Instr.mnemonic]; decide
  case h_24 => exact .noCommand rfl (by simp_all [← BitVec.toNat_inj])
  all_goals
    next hopc =>
      refine .ok_of_opcode hopc rfl ?_ fun a b c => .inl (by decide)
      simp only [Instr.mnemonic]; decide

/-! ### Decoding an encoded command -/

/-- The decoder reads the fields that the encoder packed. The five checked commands need their hypothesis; the check of
the others passes whatever their operands. -/
theorem decode_encode {i : Instr} (h : i.wf = true) : decode (encode i) = .ok i := by
  cases i
  case i2cRead | i2cWrite | setBit | testBit | initializeGpio => simp [encode, decode, checkOperands_of_wf h]
  all_goals simp [encode, decode, decodePinSet, decodePinGet, decodePortWrite, decodePortRead]

/-- Settles O2, by `decode_encode`. -/
theorem decodeOfEncodeIsTheCommand : Obligations.DecodeOfEncodeIsTheCommand := fun _ => decode_encode

/-! ### Rows of the opcode table -/

/-- No word can select two rows: two of them differ where both their masks look. -/
theorem opcodeTable_pairwise :
    opcodeTable.Pairwise fun x y => x.bits &&& (x.mask &&& y.mask) ≠ y.bits &&& (x.mask &&& y.mask) := by decide

/-- Where two masks both look, the bits one of them selects are the word's. -/
theorem and_common_mask {w mask bits : Word} (h : w &&& mask = bits) (mask' : Word) :
    bits &&& (mask &&& mask') = w &&& (mask &&& mask') := by
  rw [← h, BitVec.and_assoc, ← BitVec.and_assoc mask, BitVec.and_self]

theorem row_unique {w : Word} {x y : OpcodeRow} (hx : x ∈ opcodeTable) (hy : y ∈ opcodeTable)
    (hxw : w &&& x.mask = x.bits) (hyw : w &&& y.mask = y.bits) : x = y := by
  have common : x.bits &&& (x.mask &&& y.mask) = y.bits &&& (x.mask &&& y.mask) := by
    rw [and_common_mask hxw, BitVec.and_comm x.mask, and_common_mask hyw]
  have hsymm : Std.Symm fun x y : OpcodeRow => x.bits &&& (x.mask &&& y.mask) ≠ y.bits &&& (x.mask &&& y.mask) :=
    ⟨fun x y h => by rw [BitVec.and_comm y.mask]; exact h.symm⟩
  by_contra hne
  exact opcodeTable_pairwise.forall hx hy hne common

theorem wf_and_row_of_decode_eq_ok {w : Word} {i : Instr} (h : decode w = .ok i) :
    i.wf = true ∧ SelectsRowOf w i.mnemonic := by
  cases decode_case w with
  | command ha row _ =>
    obtain ⟨hwf, rfl⟩ := checkOperands_eq_ok_iff.1 (ha.symm.trans h)
    exact ⟨hwf, row⟩
  | noCommand ha _ => cases ha.symm.trans h

theorem row_of_decode_eq_error {w : Word} {r : IllegalReason} (h : decode w = .error r) :
    (∀ x ∈ opcodeTable, w &&& x.mask ≠ x.bits) ∨
    (∃ x ∈ opcodeTable, w &&& x.mask = x.bits ∧
      x.mnemonic ∈ ["i2cRead", "i2cWrite", "setBit", "testBit", "initialize"]) := by
  cases decode_case w with
  | command ha row _ =>
    have hill := illFormed_of_wf_eq_false (checkOperands_isError_iff.1 ⟨r, ha.symm.trans h⟩)
    obtain ⟨x, hx, hm, hw⟩ := row
    exact .inr ⟨x, hx, hw, hm ▸ hill.mnemonic⟩
  | noCommand _ hno => exact .inl fun x hx hw => hno (hasCommand_of_row hx hw)

/-- Settles O3: `row_unique`, and the row that `decode_case` finds. -/
theorem decodeSelectsExactlyOneTableRow : Obligations.DecodeSelectsExactlyOneTableRow :=
  ⟨fun _ _ hx _ hy => row_unique hx hy, fun _ _ => wf_and_row_of_decode_eq_ok, fun _ _ => row_of_decode_eq_error⟩

/-! ### Illegal words and ill-formed commands -/

/-- R97: the illegal words are those without legal fields. -/
theorem decode_isError_iff (w : Word) :
    (∃ r, decode w = .error r) ↔ ¬ LegalFields (fieldOpc w) (fieldA w) (fieldB w) (fieldC w) := by
  cases decode_case w with
  | command ha _ legal => rw [ha, checkOperands_isError_iff, legal, Bool.not_eq_true]
  | noCommand ha hno => exact iff_of_true ⟨_, ha⟩ fun hlegal => hno (hasCommand_of_legalFields hlegal)

end Sys2Proof

namespace Sys2Proof.Machine

theorem runPort_of_decode_error {s : State} {r : IllegalReason} (h : decode s.cmd = .error r) :
    runPort s = .next (illegalCommand s) := by
  simp only [runPort, h]

/-- Settles O4: the port answers `illegalCommand`, and an idle block has BUSY 0 before and after. -/
theorem illegalWordsEndAtOnce : Obligations.IllegalWordsEndAtOnce := by
  refine ⟨decode_isError_iff, fun s w rest r hidle hhost hdecode => ?_⟩
  obtain ⟨hclosed, hbusy⟩ := hidle
  calc step s
    _ = runPort (acceptCommand w (takeMove rest s)) := step_of_writeCmd hbusy hhost
    _ = .next (illegalCommand (acceptCommand w (takeMove rest s))) := runPort_of_decode_error hdecode
    _ = .next { s with host := rest, cmd := w, status := 0xFF, rval := 0, rlen := 0 } := by
      rw [illegalCommand_eq (show (acceptCommand w (takeMove rest s)).handle = .closed from hclosed), ← hbusy]
      rfl

theorem slaveOperand_of_not_legal {slave : Byte} (h : addressLegal slave = false) : slaveOperand slave = none := by
  simp [slaveOperand, h]

theorem lenOperand_of_not_legal {len : Byte} (h : lenLegal len = false) : lenOperand len = none := by
  simp [lenOperand, h]

theorem indexOperand_of_not_legal {index : Byte} (h : indexLegal index = false) : indexOperand index = none :=
  dif_neg fun hlt => of_decide_eq_false h (Nat.le_of_lt_succ hlt)

/-- Log 17: each of the five commands tests its operands before it begins. -/
theorem exec_of_illFormed {i : Instr} (h : IllFormed i) (s : State) : exec i s = .next (illegalCommand s) := by
  cases h with
  | i2cRead h | i2cWrite h =>
    simp only [exec, execI2cRead, execI2cWrite]
    split
    · next hslave hlen =>
      rcases h with h | h
      · cases (slaveOperand_of_not_legal h).symm.trans hslave
      · cases (lenOperand_of_not_legal h).symm.trans hlen
    · rfl
  | setBit h => simp only [exec, execSetBit, indexOperand_of_not_legal h]
  | testBit h => simp only [exec, execTestBit, indexOperand_of_not_legal h]
  | initializeGpio h => simp only [exec, execInitialize, slaveOperand_of_not_legal h]

/-- Settles O5: `exec` answers `illegalCommand`, whose state `illegalCommand_eq` gives. -/
theorem illFormedCommandsAreIllegal : Obligations.IllFormedCommandsAreIllegal := by
  intro i s hclosed hwf
  rw [exec_of_illFormed (illFormed_of_wf_eq_false hwf), illegalCommand_eq hclosed]
  rfl

/-- Settles O1: each word is closed, so the decoder computes. -/
theorem decodeOfWrittenOutWords : Obligations.DecodeOfWrittenOutWords := by
  unfold Obligations.DecodeOfWrittenOutWords
  decide

end Sys2Proof.Machine
end

/-! ## The BitOps commands (O25, O26) -/

section
namespace Sys2Proof.Machine
open Sys2Proof.Claims

theorem testBitOf_setBitOf_same (b : Byte) (i : Fin 8) (v : Bool) :
    testBitOf (setBitOf b i v) i = if v then 1 else 0 := by
  rw [testBitOf_eq_ofBool, getLsbD_setBitOf, if_pos rfl]
  cases v <;> rfl

/-- Settles O25: the bit that was set, and any other bit. -/
theorem setBitThenTestBit : Obligations.SetBitThenTestBit := by
  intro b i j v
  by_cases h : j = i
  · rw [if_pos h, h, testBitOf_setBitOf_same]
  · rw [if_neg h, testBitOf_setBitOf_other b v h]

/-! ### The words of the two commands (R92, R94) -/

theorem decode_setBit_word (byte index c : Byte) :
    decode (packWord 0x10 byte index c) = checkOperands (.setBit byte index c) := by
  simp [decode]

/-- The two-operand command ignores the field `C` of its word. -/
theorem decode_testBit_word (byte index c : Byte) :
    decode (packWord 0x11 byte index c) = checkOperands (.testBit byte index) := by
  simp [decode]

theorem indexLegal_iff {index : Byte} : indexLegal index = true ↔ index.toNat < 8 :=
  decide_eq_true_iff.trans Nat.lt_succ_iff.symm

theorem checkOperands_of_operandFault {i : Instr} {r : IllegalReason} (h : i.operandFault = some r) :
    checkOperands i = .error r := by
  simp only [checkOperands, h]

/-! ### What the two commands return (R120, R121) -/

/-- A command of no effect but its value: the next state is known whole. -/
theorem runCommand_returnValue (v : Half) (s : State) : runCommand (returnValue v) s = resultOnly s 0x00 v := rfl

theorem indexOperand_of_lt {index : Byte} (h : index.toNat < 8) : indexOperand index = some ⟨index.toNat, h⟩ :=
  dif_pos h

theorem exec_setBit_of_lt (s : State) (byte value : Byte) {index : Byte} (h : index.toNat < 8) :
    exec (.setBit byte index value) s =
      .next (resultOnly s 0x00 ((setBitOf byte ⟨index.toNat, h⟩ (boolOperand value)).setWidth 16)) := by
  simp only [exec, execSetBit, indexOperand_of_lt h, runCommand_returnValue]

theorem exec_testBit_of_lt (s : State) (byte : Byte) {index : Byte} (h : index.toNat < 8) :
    exec (.testBit byte index) s =
      .next (resultOnly s 0x00 ((testBitOf byte ⟨index.toNat, h⟩).setWidth 16)) := by
  simp only [exec, execTestBit, indexOperand_of_lt h, runCommand_returnValue]

/-- R121: as RVAL, the bit is exactly 0 or 1. -/
theorem setWidth_testBitOf (b : Byte) (j : Fin 8) :
    (testBitOf b j).setWidth 16 = if b.getLsbD j then 1 else 0 := by
  rw [testBitOf_eq_ofBool]
  cases b.getLsbD j <;> rfl

/-- Settles O26: the words by the operand check, the results by `getLsbD_setBitOf` and `setWidth_testBitOf`. -/
theorem bitCommandsReturnTheBits : Obligations.BitCommandsReturnTheBits := by
  refine ⟨fun byte index c h => ?legal, fun byte index c h => ?illegal, fun s byte index value h => ⟨?set, ?test⟩⟩
  case legal =>
    have hlegal := indexLegal_iff.2 h
    exact ⟨(decode_setBit_word ..).trans (checkOperands_of_wf ((wf_setBit ..).trans hlegal)),
      (decode_testBit_word ..).trans (checkOperands_of_wf ((wf_testBit ..).trans hlegal))⟩
  case illegal =>
    have hnot : ¬ indexLegal index = true := indexLegal_iff.not.2 (Nat.not_lt.2 h)
    exact ⟨(decode_setBit_word ..).trans (checkOperands_of_operandFault (if_neg hnot)),
      (decode_testBit_word ..).trans (checkOperands_of_operandFault (if_neg hnot))⟩
  case set =>
    refine ⟨_, exec_setBit_of_lt s byte value h, fun j => ?_⟩
    rw [getLsbD_setBitOf, boolOperand]
    simp only [Fin.ext_iff, BitVec.ofNat_eq_ofNat]
  case test =>
    rw [exec_testBit_of_lt s byte h, setWidth_testBitOf]

end Sys2Proof.Machine
end

/-! ## Steps and openTransaction (O13, O16) -/

section
namespace Sys2Proof.Machine
open Sys2Proof.Safety Sys2Proof.Claims

theorem Ended.idle {s t : State} {e l : List Event} (h : Ended s t e l) : idle t := ⟨h.handle, h.busy⟩

/-- R97, R313: whatever word stands in CMD, the port answers an idle block. -/
theorem runPort_idle {s : State} (hs : s.handle = .closed) : ∃ t, runPort s = .next t ∧ idle t := by
  unfold runPort
  split
  · next i _ =>
    obtain ⟨t, e, l, ht, hend⟩ := exec_ended i hs
    exact ⟨t, ht, hend.idle⟩
  · exact ⟨_, rfl, (illegalCommand_ended hs).idle⟩

/-- Settles O13: by the host's next move; for a command word, `runPort_idle`. -/
theorem everyStepEndsIdle : Obligations.EveryStepEndsIdle := by
  rintro s ⟨hclosed, hbusy⟩
  match hhost : s.host with
  | [] => exact ⟨s, step_of_no_move hbusy hhost, hclosed, hbusy⟩
  | .storeDbuf i v :: rest => exact ⟨_, step_of_storeDbuf hbusy hhost, hclosed, hbusy⟩
  | .reset :: rest => exact ⟨_, step_of_reset hbusy hhost, rfl, rfl⟩
  | .writeCmd w :: rest =>
    rw [step_of_writeCmd hbusy hhost]
    exact runPort_idle hclosed

/-- Settles O16: the three outcomes of `openTransaction_cases`. -/
theorem openTransactionIsBounded : Obligations.OpenTransactionIsBounded := by
  intro slave s hs
  rcases openTransaction_cases (slave := slave) hs with ⟨t, h, ht, -⟩ | ⟨r, hr, t, h, ht, -⟩ | ⟨r, hr, t, h, hm, hh, -⟩
  · exact .inl ⟨t, h, ht.handle, ht.moved.history⟩
  · exact .inr (.inl ⟨r, hr, t, h, ht.handle, ht.moved.history.trans (List.append_assoc ..).symm⟩)
  · exact .inr (.inr ⟨r, hr, t, h, hh, hm.history.trans (List.append_assoc ..).symm⟩)

end Sys2Proof.Machine
end

/-! ## What BusUnavailable and ShortTransfer tell of the history (O18, O19) -/

section
namespace Sys2Proof.Machine
open Sys2Proof.Safety Sys2Proof.Claims

/-- R276: a command that did not end OK met a failure, whose code, count and last events it left. -/
theorem Ended.failure {s t : State} {e l : List Event} (h : Ended s t e l) (hst : t.status ≠ 0x00#8) :
    ∃ f : Failure, t.status = f.code ∧ t.rval = 0 ∧ t.rlen = f.rlenAfter 0 ∧ LastEvents s.busPath s.params f l := by
  rcases h.result with ⟨hok, -⟩ | hfailed
  · exact absurd hok hst
  · exact hfailed

theorem Failure.eq_busUnavailable_of_code {f : Failure} (h : f.code = 0x01#8) : f = .busUnavailable := by
  cases f with
  | busUnavailable => rfl
  | shortTransfer k data => exact absurd h (by simp [Failure.code])
  | invalidPin | invalidPort | memoryRangeError | illegalCommand => exact absurd h (by decide)

theorem Failure.eq_shortTransfer_of_code {f : Failure} (h : f.code = 0x02#8) : ∃ k data, f = .shortTransfer k data := by
  cases f with
  | shortTransfer k data => exact ⟨k, data, rfl⟩
  | busUnavailable | invalidPin | invalidPort | memoryRangeError | illegalCommand => exact absurd h (by decide)

/-- Settles O18: the last events of a command that failed with `busUnavailable` are those `LastEvents` gives. -/
theorem busUnavailableHasTwoCauses : Obligations.BusUnavailableHasTwoCauses := by
  intro i s t hs h hst
  obtain ⟨earlier, last, hend⟩ := ended_of_exec hs h
  obtain ⟨f, hcode, hrval, hrlen, hlast⟩ := hend.failure (by rw [hst]; decide)
  obtain rfl := Failure.eq_busUnavailable_of_code (hcode.symm.trans hst)
  exact ⟨hrval, hrlen, earlier, last, hend.history.trans (List.append_assoc ..).symm, hend.brackets, hlast⟩

/-- Settles O19: `LastEvents` ties the count of a `shortTransfer` to the last transfer, and RLEN holds that count. -/
theorem shortTransferReportsTheCount : Obligations.ShortTransferReportsTheCount := by
  intro i s t hs h hst
  obtain ⟨earlier, last, hend⟩ := ended_of_exec hs h
  obtain ⟨f, hcode, hrval, hrlen, hlast⟩ := hend.failure (by rw [hst]; decide)
  obtain ⟨k, data, rfl⟩ := Failure.eq_shortTransfer_of_code (hcode.symm.trans hst)
  obtain ⟨hk, r, hr, a, transfers, rfl, htransfers⟩ := hlast
  have hcount : t.rlen.toNat = k := by
    rw [hrlen]
    exact Nat.mod_eq_of_lt (by omega)
  refine ⟨hrval, earlier, r, a, transfers, hend.history.trans (List.append_assoc ..).symm, hr, hend.brackets, ?_⟩
  rcases htransfers with ⟨buf, hbuf, hshort, -⟩ | ⟨reg, n, hread, hshort, rfl⟩
  · exact .inl ⟨buf, k, hbuf, hshort, hcount⟩
  · exact .inr ⟨reg, n, data, hread, hshort, hcount⟩

end Sys2Proof.Machine
end

/-! ## busSetup and a failed raw read (O20, O22) -/

section
namespace Sys2Proof.Machine
open Sys2Proof.Safety Sys2Proof.Claims

/-- R94: OPC 0x01 has its operand in `A` and ignores `B` and `C`. -/
theorem decode_busSetup (path b c : Byte) : decode (packWord 0x01 path b c) = .ok (.busSetup path) := by
  simp [decode]

/-- Settles O20: the word by its fields; the body writes BUSPATH and no more. -/
theorem busSetupStoresThePath : Obligations.BusSetupStoresThePath :=
  fun path b c _ => ⟨decode_busSetup path b c, rfl⟩

theorem onlyRead_of_sameDevices {s t : State} (h : SameDevices s t) (a : SlaveAddr) (reg : Byte) (n : Nat) :
    OnlyRead s t a reg n :=
  ⟨fun x b hb => by rwa [h], fun x _ => by rw [h]⟩

/-- A read transaction that failed and was to be delivered: what it received, if anything, stands in the mailbox, and a
count was reported by the one transfer that fell short (R140, R241, R272). -/
theorem deliver_memRead_err {a : SlaveAddr} {reg : Byte} {n : Nat} {s v : State} {f : Failure} (hs : s.handle = .closed)
    (hn : n ≤ 63) (h : deliver (memRead a reg n s) = .err f v) :
    ∃ u data evs, v = setDbuf data u ∧ Transacted s u evs ∧ OnlyRead s u a reg n ∧
      ((f = .busUnavailable ∧ data = []) ∨
        (f = .shortTransfer data.length data ∧ data.length ≤ n ∧
          (data ≠ [] → ∃ r, evs = readEvents s r a reg n data))) := by
  rcases memRead_cases (slave := a) (reg := reg) (n := n) hs with ⟨u, hr, ht, hd⟩ | ⟨r, -, u, hr, ht, hd⟩ |
    ⟨r, -, u, hr, ht, hd⟩ | ⟨r, -, u, data, hl, hr, ht, hd, raw, hdata⟩ | ⟨r, -, u, data, -, hr, -⟩ <;>
    rw [hr] at h <;> cases h
  · exact ⟨v, [], _, rfl, ht, onlyRead_of_sameDevices hd a reg n, .inl ⟨rfl, rfl⟩⟩
  · exact ⟨v, [], _, rfl, ht, onlyRead_of_sameDevices hd a reg n, .inl ⟨rfl, rfl⟩⟩
  · exact ⟨u, [], _, rfl, ht, onlyRead_of_sameDevices hd a reg n, .inr ⟨rfl, Nat.zero_le n, fun hne => absurd rfl hne⟩⟩
  · have hraw : raw.length ≤ n := by
      rw [← readReturned_length s.env a reg n raw, ← hdata]
      exact hl.le
    exact ⟨u, data, _, rfl, ht, onlyRead_of_regsAfterRead (by omega) hraw (hd.trans (congrArg _ hdata)),
      .inr ⟨rfl, hl.le, fun _ => ⟨r, rfl⟩⟩⟩

section
variable {s u : State} {evs : List Event} (h : Transacted (beginCommand s) u evs)
include h

/-- A command that fails after transactions and a delivery has changed DBUF and the result registers only. -/
theorem Transacted.sameRegisters_failedDelivery (f : Failure) (data : List Byte) :
    SameRegisters s { postFailure f (setDbuf data u) with dbuf := s.dbuf } :=
  ⟨h.moved.busPath, h.moved.gpioAddr, h.moved.gpioResetPol, h.moved.rtcCtrl, h.moved.century, rfl,
    h.moved.cmd, h.moved.host, h.moved.params, h.oracle, h.board, h.handle, rfl⟩

theorem Transacted.dbuf_failedDelivery (f : Failure) (data : List Byte) :
    (postFailure f (setDbuf data u)).dbuf = mailboxStore 0 data s.dbuf := by
  rw [postFailure_dbuf, setDbuf_dbuf, h.moved.dbuf]
  rfl

end

/-- R140, R241: a legal `i2cRead`, or a `readMemory` inside the window, is one read transaction, delivered. -/
theorem exec_delivers {i : Instr} {s : State} {slave : SlaveAddr} {reg len : Byte}
    (hi : (∃ a : Byte, i = .i2cRead a reg len ∧ a.toNat ≤ 0x7F ∧ len.toNat ≤ 63 ∧ slave = a.setWidth 7) ∨
      (i = .readMemory reg len ∧ slave = 0x68 ∧ reg.toNat + len.toNat ≤ 0x3F ∧
        (s.params.memLowBoundEnforced = true → 0x08 ≤ reg.toNat))) :
    len.toNat ≤ 63 ∧ exec i s = .next (runCommand (fun s1 => deliver (memRead slave reg len.toNat s1)) s) := by
  rcases hi with ⟨a, rfl, ha, hlen, rfl⟩ | ⟨rfl, rfl, hsum, hlow⟩
  · exact ⟨hlen, exec_i2cRead_legal ha hlen reg s⟩
  · exact ⟨by omega, exec_readMemory_inWindow (inWindow_iff.2 ⟨hsum, hlow⟩)⟩

/-- Settles O22: the command posts the failure of its one read transaction, which `deliver_memRead_err` describes. -/
theorem i2cReadFailureDeliversThePartialData : Obligations.I2cReadFailureDeliversThePartialData := by
  intro i s t slave reg len hs hi h hfail
  obtain ⟨hlen, hexec⟩ := exec_delivers hi
  cases hexec.symm.trans h
  cases hbody : deliver (memRead slave reg len.toNat (beginCommand s)) with
  | ok x v =>
    rw [runCommand_ok hbody] at hfail
    exact absurd rfl hfail
  | err f v =>
    obtain ⟨u, data, evs, rfl, ht, honly, hcause⟩ := deliver_memRead_err (s := beginCommand s) hs hlen hbody
    rw [runCommand_err hbody ((setDbuf_handle ..).trans ht.handle)]
    refine ⟨ht.sameRegisters_failedDelivery f data, ht.moved.rval, ⟨honly.known, honly.others⟩, ?_⟩
    rcases hcause with ⟨rfl, rfl⟩ | ⟨rfl, hl, hevs⟩
    · exact .inl ⟨rfl, ht.moved.rlen, ht.moved.dbuf⟩
    · refine .inr ⟨rfl, data, Nat.mod_eq_of_lt (by omega), hl, fun j => ?_, fun hne => ?_⟩
      · rw [ht.dbuf_failedDelivery, mailboxStore_zero_getElem]
      · obtain ⟨r, rfl⟩ := hevs hne
        exact ⟨r, ht.moved.history⟩

end Sys2Proof.Machine
end

/-! ## The PinIndex commands (O27, O28, O29) -/

section
namespace Sys2Proof.Machine
open Sys2Proof.Claims

/-! ### The pin map (R160) -/

/-- The number of the pin that sits at a bit of a port (R160, read backwards). -/
def pinNumber : Port → Fin 8 → Nat
  | .portA, bit => bit.val + 1
  | .portB, bit => bit.val + 9

theorem pinNumber_le (port : Port) (bit : Fin 8) : pinNumber port bit ≤ 16 := by
  cases port <;> simp only [pinNumber] <;> omega

theorem pinNumber_pos (port : Port) (bit : Fin 8) : 1 ≤ pinNumber port bit := by
  cases port <;> simp only [pinNumber] <;> omega

theorem resolvePinOf_portA {pin : Byte} (hlo : 1 ≤ pin.toNat) (hhi : pin.toNat ≤ 8) :
    resolvePinOf pin = some (.portA, ⟨pin.toNat - 1, by omega⟩) :=
  dif_pos ⟨hlo, hhi⟩

theorem resolvePinOf_portB {pin : Byte} (hlo : 9 ≤ pin.toNat) (hhi : pin.toNat ≤ 16) :
    resolvePinOf pin = some (.portB, ⟨pin.toNat - 9, by omega⟩) :=
  (dif_neg (by omega)).trans (dif_pos ⟨hlo, hhi⟩)

theorem resolvePinOf_none {pin : Byte} (h : pin.toNat = 0 ∨ 17 ≤ pin.toNat) : resolvePinOf pin = none :=
  (dif_neg (by omega)).trans (dif_neg (by omega))

/-- The pin map and its inverse `pinNumber`, by the three ranges of R160. -/
theorem resolvePinOf_eq_some_iff {pin : Byte} {port : Port} {bit : Fin 8} :
    resolvePinOf pin = some (port, bit) ↔ pin.toNat = pinNumber port bit := by
  have hranges : (1 ≤ pin.toNat ∧ pin.toNat ≤ 8) ∨ (9 ≤ pin.toNat ∧ pin.toNat ≤ 16) ∨
      (pin.toNat = 0 ∨ 17 ≤ pin.toNat) := by omega
  rcases hranges with ⟨hlo, hhi⟩ | ⟨hlo, hhi⟩ | hout
  · rw [resolvePinOf_portA hlo hhi]
    cases port <;> simp only [pinNumber, Option.some.injEq, Prod.mk.injEq, Fin.ext_iff, reduceCtorEq, true_and,
      false_and, false_iff] <;> omega
  · rw [resolvePinOf_portB hlo hhi]
    cases port <;> simp only [pinNumber, Option.some.injEq, Prod.mk.injEq, Fin.ext_iff, reduceCtorEq, true_and,
      false_and, false_iff] <;> omega
  · rw [resolvePinOf_none hout]
    have hlo := pinNumber_pos port bit
    have hhi := pinNumber_le port bit
    simp only [reduceCtorEq, false_iff]
    omega

/-- Settles O28: the pin of a port and bit is the one with `pinNumber`. -/
theorem pinMapIsABijection : Obligations.PinMapIsABijection := by
  intro port bit
  have hlo := pinNumber_pos port bit
  have hhi := pinNumber_le port bit
  have hpin : (BitVec.ofNat 8 (pinNumber port bit)).toNat = pinNumber port bit := Nat.mod_eq_of_lt (by omega)
  refine ⟨BitVec.ofNat 8 (pinNumber port bit), resolvePinOf_eq_some_iff.2 hpin, by omega, by omega, fun pin' h => ?_⟩
  exact BitVec.eq_of_toNat_eq ((resolvePinOf_eq_some_iff.1 h).trans hpin.symm)

/-! ### resolvePin (R160) -/

/-- A command that rejects its operand with a failure that counts nothing: the next state is known whole (R276). -/
theorem runCommand_rejected {f : Failure} (hf : f.rlenAfter 0x00#8 = 0x00#8) {s : State} (hs : s.handle = .closed) :
    runCommand (.err f) s = resultOnly s f.code 0 := by
  rw [runCommand_err rfl hs, postFailure, beginCommand_rlen, hf]
  rfl

theorem decode_resolvePin (pin b c : Byte) : decode (packWord 0x12 pin b c) = .ok (.resolvePin pin) := by
  simp [decode]

theorem exec_resolvePin_some {pin : Byte} {port : Port} {bit : Fin 8} (h : resolvePinOf pin = some (port, bit))
    (s : State) : exec (.resolvePin pin) s = .next (resultOnly s 0x00 (port.tag ++ BitVec.ofNat 8 bit.val)) := by
  simp only [exec, execResolvePin, h, runCommand_returnValue]

theorem exec_resolvePin_none {pin : Byte} (h : resolvePinOf pin = none) {s : State} (hs : s.handle = .closed) :
    exec (.resolvePin pin) s = .next (resultOnly s 0x03 0) := by
  simp only [exec, execResolvePin, h]
  exact congrArg _ (runCommand_rejected rfl hs)

/-- R91, R160: the port in RVAL[15:8] and the bit in RVAL[7:0], as a number. -/
theorem tag_append_bit (port : Port) (bit : Fin 8) :
    (port.tag ++ BitVec.ofNat 8 bit.val : Half) = BitVec.ofNat 16 (port.tag.toNat * 0x100 + bit.val) := by
  have htag : port.tag.toNat ≤ 1 := by cases port <;> decide
  apply BitVec.eq_of_toNat_eq
  rw [toNat_append_bytes, BitVec.toNat_ofNat, BitVec.toNat_ofNat]
  omega

/-- Settles O27: the three ranges of `resolvePinOf`. -/
theorem resolvePinOfEveryPin : Obligations.ResolvePinOfEveryPin := by
  refine fun pin b c s hs => ⟨decode_resolvePin pin b c, fun hlo hhi => ?portA, fun hlo hhi => ?portB, fun h => ?none⟩
  case portA =>
    rw [exec_resolvePin_some (resolvePinOf_portA hlo hhi), tag_append_bit]
    simp [Port.tag]
  case portB =>
    rw [exec_resolvePin_some (resolvePinOf_portB hlo hhi), tag_append_bit]
    simp [Port.tag]
  case none => exact exec_resolvePin_none (resolvePinOf_none h) hs

/-! ### resolvePort (R161) -/

theorem resolvePortOf_none {port : Byte} (h : 2 ≤ port.toNat) (base : Byte) : resolvePortOf port base = none := by
  have hA : port ≠ Port.portA.tag := by rintro rfl; exact absurd h (by decide)
  have hB : port ≠ Port.portB.tag := by rintro rfl; exact absurd h (by decide)
  exact (if_neg hA).trans (if_neg hB)

theorem decode_resolvePort (port base c : Byte) :
    decode (packWord 0x13 port base c) = .ok (.resolvePort port base) := by
  simp [decode]

theorem exec_resolvePort_some {port base reg : Byte} (h : resolvePortOf port base = some reg) (s : State) :
    exec (.resolvePort port base) s = .next (resultOnly s 0x00 (BitVec.ofNat 16 reg.toNat)) := by
  simp only [exec, execResolvePort, h, runCommand_returnValue, BitVec.ofNat_toNat]

theorem exec_resolvePort_none {port base : Byte} (h : resolvePortOf port base = none) {s : State}
    (hs : s.handle = .closed) : exec (.resolvePort port base) s = .next (resultOnly s 0x04 0) := by
  simp only [exec, execResolvePort, h]
  exact congrArg _ (runCommand_rejected rfl hs)

/-- Settles O29: the two tags of `resolvePortOf`, and every other byte. -/
theorem resolvePortOfEveryTag : Obligations.ResolvePortOfEveryTag := by
  refine fun port base c s hs => ⟨decode_resolvePort port base c, ?_, ?_, fun h => ?_⟩
  · rintro rfl
    exact exec_resolvePort_some rfl s
  · rintro rfl
    rw [exec_resolvePort_some (reg := base + 1#8) rfl, BitVec.toNat_add]
    rfl
  · exact exec_resolvePort_none (resolvePortOf_none h base) hs

end Sys2Proof.Machine
end

/-! ## The per-pin commands, granted (O32, O34) -/

section
namespace Sys2Proof.Machine
open Sys2Proof.Safety Sys2Proof.Claims

/-! ### The expander's registers (R68, R162) -/

/-- R162: the register and the bit of a legal pin. -/
theorem regOfPin_of_pinAt {base pin reg : Byte} {bit : Fin 8} (h : PinAt base pin reg bit) :
    regOfPin base pin = some (reg, bit) := by
  rcases h with ⟨hlo, hhi, rfl, hbit⟩ | ⟨hlo, hhi, rfl, hbit⟩
  · have hpin : resolvePinOf pin = some (.portA, bit) := resolvePinOf_eq_some_iff.2 (by rw [pinNumber]; omega)
    simp only [regOfPin, hpin]
    rfl
  · have hpin : resolvePinOf pin = some (.portB, bit) := resolvePinOf_eq_some_iff.2 (by rw [pinNumber]; omega)
    simp only [regOfPin, hpin]
    rfl

/-- R68, R69: the registers of both ports over the base of a per-pin setter are listed. -/
theorem pinSetters_listed : ∀ f ∈ pinSetters, gpioListed f.1.toNat = true ∧ gpioListed (f.1 + 1).toNat = true := by
  decide

theorem gpioListed_of_pinAt {f : Byte × (Byte → Byte → Instr)} (hf : f ∈ pinSetters) {pin reg : Byte} {bit : Fin 8}
    (h : PinAt f.1 pin reg bit) : gpioListed reg.toNat = true := by
  obtain ⟨hA, hB⟩ := pinSetters_listed f hf
  rcases h with ⟨-, -, rfl, -⟩ | ⟨-, -, rfl, -⟩
  · exact hA
  · exact hB

theorem le_of_gpioListed {reg : Nat} (h : gpioListed reg = true) : reg ≤ 0x15 := by
  simp only [gpioListed, Bool.and_eq_true, decide_eq_true_eq] at h
  exact h.1

/-! ### One-byte transactions of the expander (R170) -/

/-- A granted one-byte read: the byte, the events, the answers used and the frame. -/
theorem gpioRead_granted_byte {reg : Byte} {s : State} {r : Nat} (hg : ReadGranted s 0 r 1) :
    ∃ t v, gpioRead reg s = .ok v t ∧
      [v] = readReturned s.env s.gpioAddr reg 1 ((s.env.answer (r + 3)).data.take 1) ∧
      Transacted s t (readEvents s r s.gpioAddr reg 1 [v]) ∧ (∀ j, t.env.answer j = s.env.answer (j + (r + 4))) ∧
      OnlyRead s t s.gpioAddr reg 1 := by
  obtain ⟨t, data, hlen, hr, ht, hans, hd, hdata, -⟩ := memRead_granted (slave := s.gpioAddr) (reg := reg) hg
  obtain ⟨v, rfl⟩ := List.length_eq_one_iff.1 hlen
  refine ⟨t, v, ?_, hdata, ht, hans,
    onlyRead_of_regsAfterRead (by omega) (List.length_take_le ..) (hd.trans (congrArg _ hdata))⟩
  rw [gpioRead, hr]
  rfl

/-- A byte written to a listed register of the expander's address changes no other register. -/
theorem onlyWritten_listed {s t : State} {a : SlaveAddr} {reg v : Byte} (hreg : gpioListed reg.toNat = true)
    (hd : t.env.devRegs = regsAfterWrite s.env a [reg, v]) : OnlyWritten s t a reg 1 := by
  have hle := le_of_gpioListed hreg
  rcases regsAfterWrite_cases s.env a reg [v] with h | ⟨-, ⟨-, -, hpast⟩ | ⟨-, hlong⟩, -⟩
  · exact fun x hx => by rw [hd]; exact h x hx
  · exact absurd hpast (by rw [List.length_singleton]; omega)
  · exact absurd hlong (Nat.lt_irrefl 1)

/-- A granted one-byte write of a listed register: the events, the frame, and the byte where a device answers. -/
theorem gpioWrite_granted {reg v : Byte} {s : State} {r : Nat} (hreg : gpioListed reg.toNat = true)
    (hg : WriteGranted s 0 r 1) :
    ∃ t, gpioWrite reg v s = .ok () t ∧ Transacted s t (writeEvents s r s.gpioAddr reg [v] 2) ∧
      OnlyWritten s t s.gpioAddr reg 1 ∧
      ((deviceAt s.env.board s.gpioAddr).isSome →
        Memory.read t.env.devRegs (regKey s.gpioAddr reg.toNat) = some v) := by
  obtain ⟨t, hw, ht, -, hd⟩ := memWrite_granted (slave := s.gpioAddr) (reg := reg) (v := [v]) hg
  refine ⟨t, hw, ht, onlyWritten_listed hreg hd, fun hdev => ?_⟩
  obtain ⟨dev, hdev⟩ := Option.isSome_iff_exists.1 hdev
  have hstored : regsAfterWrite s.env s.gpioAddr [reg, v] =
      Memory.write s.env.devRegs (regKey s.gpioAddr reg.toNat) v := by
    refine regsAfterWrite_one hdev (.inr ?_)
    cases dev with
    | rtc => exact (le_of_gpioListed hreg).trans (by decide)
    | gpio => exact hreg
  rw [hd, hstored, Memory.read_write_same]

/-! ### The setters (R171) -/

/-- The seven commands of OPC 0x20 are `pinSet` over their base. -/
theorem exec_pinSetter (pin value : Byte) (s : State) :
    ∀ f ∈ pinSetters, exec (f.2 pin value) s = .next (runCommand (pinSet f.1 pin value) s) := by
  simp only [pinSetters, List.forall_mem_cons]
  exact ⟨rfl, rfl, rfl, rfl, rfl, rfl, rfl, List.forall_mem_nil _⟩

/-- The template with both of its transactions granted: the second begins with the answers the first left. -/
theorem pinSet_granted {base pin value reg : Byte} {bit : Fin 8} {s : State} {r r' : Nat}
    (hpin : PinAt base pin reg bit) (hreg : gpioListed reg.toNat = true) (hr : ReadGranted s 0 r 1)
    (hw : WriteGranted s (r + 4) r' 1) :
    ∃ t cur, pinSet base pin value s = .ok () t ∧
      [cur] = readReturned s.env s.gpioAddr reg 1 ((s.env.answer (r + 3)).data.take 1) ∧
      Transacted s t (readEvents s r s.gpioAddr reg 1 [cur] ++
        writeEvents s r' s.gpioAddr reg [setBitOf cur bit (boolOperand value)] 2) ∧
      OnlyWritten s t s.gpioAddr reg 1 ∧
      ((deviceAt s.env.board s.gpioAddr).isSome →
        Memory.read t.env.devRegs (regKey s.gpioAddr reg.toNat) = some (setBitOf cur bit (boolOperand value))) := by
  obtain ⟨u, cur, hread, hcur, hu, hans, honly⟩ := gpioRead_granted_byte (reg := reg) hr
  obtain ⟨t, hwrite, ht, hothers, hlands⟩ := gpioWrite_granted (v := setBitOf cur bit (boolOperand value)) hreg
    (writeGranted_later hans rfl hu hw)
  rw [hu.moved.gpioAddr] at hothers hlands
  rw [hu.board] at hlands
  refine ⟨t, cur, ?_, hcur, ?_, fun x hx => (hothers x hx).trans (honly.others x hx), hlands⟩
  · simp only [pinSet, regOfPin_of_pinAt hpin, hread, Res.andThen, hwrite]
  · have hevents := hu.trans ht
    simp only [writeEvents, hu.moved.busPath, hu.moved.params, hu.moved.gpioAddr] at hevents
    exact hevents

/-- Settles O32: every setter is `pinSet` over its base, and `pinSet_granted` says what that does. -/
theorem pinSettersReadModifyWrite : Obligations.PinSettersReadModifyWrite := by
  intro f hf s pin value reg bit r r' _ hpin hr hw
  obtain ⟨u, cur, hbody, hcur, ht, hothers, hlands⟩ := pinSet_granted (value := value) hpin
    (gpioListed_of_pinAt hf hpin) (readGranted_beginCommand hr) (writeGranted_beginCommand hw)
  have hexec : exec (f.2 pin value) s = .next (finish u) :=
    (exec_pinSetter pin value s f hf).trans (congrArg _ (runCommand_ok hbody))
  exact ⟨finish u, cur, hexec, hcur, ht.history_finish.trans (List.append_assoc ..).symm, ht.results_finish,
    ht.sameRegisters_finish, hothers, fun hdev _ => hlands hdev⟩

/-! ### The getters (R172) -/

/-- The seven commands of OPC 0x21 are `pinGet` over their base. -/
theorem exec_pinGetter (pin : Byte) (s : State) :
    ∀ f ∈ pinGetters, exec (f.2 pin) s = .next (runCommand (pinGet f.1 pin) s) := by
  simp only [pinGetters, List.forall_mem_cons]
  exact ⟨rfl, rfl, rfl, rfl, rfl, rfl, rfl, List.forall_mem_nil _⟩

section
variable {s u : State} {evs : List Event} (h : Transacted (beginCommand s) u evs)
include h

/-- A command that returns a value after transactions has changed the result registers only. -/
theorem Transacted.sameRegisters_value (v : Half) : SameRegisters s (finish (setRval v u)) :=
  ⟨h.moved.busPath, h.moved.gpioAddr, h.moved.gpioResetPol, h.moved.rtcCtrl, h.moved.century, h.moved.dbuf,
    h.moved.cmd, h.moved.host, h.moved.params, h.oracle, h.board, h.handle, rfl⟩

theorem Transacted.results_value (v : Half) : Results (finish (setRval v u)) 0x00 v 0 :=
  ⟨rfl, rfl, congrArg BitVec.toNat h.moved.rlen⟩

end

/-- Settles O34: every getter is `pinGet` over its base, whose one read is granted. -/
theorem pinGettersReturnTheBit : Obligations.PinGettersReturnTheBit := by
  intro f hf s pin reg bit r _ hpin hg
  obtain ⟨u, cur, hread, hcur, ht, -, honly⟩ := gpioRead_granted_byte (reg := reg) (readGranted_beginCommand hg)
  have hbody : pinGet f.1 pin (beginCommand s) = .ok () (setRval (if cur.getLsbD bit.val then 1 else 0) u) := by
    simp only [pinGet, regOfPin_of_pinAt hpin, hread, Res.andThen, returnValue, setWidth_testBitOf]
  exact ⟨_, cur, (exec_pinGetter pin s f hf).trans (congrArg _ (runCommand_ok hbody)), hcur, ht.moved.history,
    ht.results_value _, ht.sameRegisters_value _, ⟨honly.known, honly.others⟩⟩

end Sys2Proof.Machine
end

/-! ## The per-port commands, granted (O35, O36, O37) -/

section
namespace Sys2Proof.Machine
open Sys2Proof.Safety Sys2Proof.Claims

/-- R161: the register of a legal port. -/
theorem resolvePortOf_of_portAt {base port reg : Byte} (h : PortAt base port reg) :
    resolvePortOf port base = some reg := by
  rcases h with ⟨rfl, rfl⟩ | ⟨rfl, rfl⟩ <;> rfl

/-! ### The writes (R173) -/

/-- The seven commands of OPC 0x22 are `portWrite` over their base. -/
theorem exec_portWriter (port value : Byte) (s : State) :
    ∀ f ∈ portWriters, exec (f.2 port value) s = .next (runCommand (portWrite f.1 port value) s) := by
  simp only [portWriters, List.forall_mem_cons]
  exact ⟨rfl, rfl, rfl, rfl, rfl, rfl, rfl, List.forall_mem_nil _⟩

/-- R68, R69: the registers of both ports over the base of a per-port write are listed. -/
theorem portWriters_listed : ∀ f ∈ portWriters, gpioListed f.1.toNat = true ∧ gpioListed (f.1 + 1).toNat = true := by
  decide

theorem gpioListed_of_portAt {f : Byte × (Byte → Byte → Instr)} (hf : f ∈ portWriters) {port reg : Byte}
    (h : PortAt f.1 port reg) : gpioListed reg.toNat = true := by
  obtain ⟨hA, hB⟩ := portWriters_listed f hf
  rcases h with ⟨-, rfl⟩ | ⟨-, rfl⟩
  · exact hA
  · exact hB

/-- Settles O35: every per-port write is `portWrite` over its base, whose one write is granted. -/
theorem portWritersWriteTheByte : Obligations.PortWritersWriteTheByte := by
  intro f hf s port value reg r _ hport hg
  obtain ⟨u, hwrite, ht, hothers, hlands⟩ := gpioWrite_granted (v := value) (gpioListed_of_portAt hf hport)
    (writeGranted_beginCommand hg)
  have hbody : portWrite f.1 port value (beginCommand s) = .ok () u := by
    simp only [portWrite, resolvePortOf_of_portAt hport, hwrite]
  exact ⟨finish u, (exec_portWriter port value s f hf).trans (congrArg _ (runCommand_ok hbody)), ht.history_finish,
    ht.results_finish, ht.sameRegisters_finish, hothers, fun hdev _ => hlands hdev⟩

/-! ### The reads (R174, R208) -/

/-- The ten commands of OPC 0x23 are `portRead` over their base. -/
theorem exec_portReader (port : Byte) (s : State) :
    ∀ f ∈ portReaders, exec (f.2 port) s = .next (runCommand (portRead f.1 port) s) := by
  simp only [portReaders, List.forall_mem_cons]
  exact ⟨rfl, rfl, rfl, rfl, rfl, rfl, rfl, rfl, rfl, rfl, List.forall_mem_nil _⟩

/-- Settles O36: every per-port read is `portRead` over its base, whose one read is granted. -/
theorem portReadersReturnTheByte : Obligations.PortReadersReturnTheByte := by
  intro f hf s port reg r _ hport hg
  obtain ⟨u, v, hread, hv, ht, -, honly⟩ := gpioRead_granted_byte (reg := reg) (readGranted_beginCommand hg)
  have hbody : portRead f.1 port (beginCommand s) = .ok () (setRval (v.setWidth 16) u) := by
    simp only [portRead, resolvePortOf_of_portAt hport, hread, Res.andThen, returnValue]
  exact ⟨_, v, (exec_portReader port s f hf).trans (congrArg _ (runCommand_ok hbody)), hv, ht.moved.history,
    ht.results_value _, ht.sameRegisters_value _, ⟨honly.known, honly.others⟩⟩

/-- Settles O37: the body is one read of the capture register, whose byte goes nowhere. -/
theorem acknowledgeReadsTheCaptureRegister : Obligations.AcknowledgeReadsTheCaptureRegister := by
  intro s port reg r _ hport hg
  obtain ⟨u, v, hread, -, ht, -, honly⟩ := gpioRead_granted_byte (reg := reg) (readGranted_beginCommand hg)
  have hbody : gpioAcknowledge [reg] (beginCommand s) = .ok () u := by
    simp only [gpioAcknowledge, hread, Res.andThen]
  exact ⟨finish u, v, (exec_acknowledgeInterrupts_legal (resolvePortOf_of_portAt hport) s).trans
    (congrArg _ (runCommand_ok hbody)), ht.history_finish, ht.results_finish, ht.sameRegisters_finish,
    ⟨honly.known, honly.others⟩⟩

end Sys2Proof.Machine
end

/-! ## Invalid pins and ports (O39) -/

section
namespace Sys2Proof.Machine
open Sys2Proof.Safety Sys2Proof.Claims

/-- R162: an invalid pin has no register over any base. -/
theorem regOfPin_none {pin : Byte} (h : pin.toNat = 0 ∨ 17 ≤ pin.toNat) (base : Byte) : regOfPin base pin = none := by
  simp only [regOfPin, resolvePinOf_none h]

section
variable {x : Byte} {s : State} (hs : s.handle = .closed)
include hs

/-- R171, R172: the per-pin templates reject an invalid pin before any bus call. -/
theorem runCommand_pin_invalid (hx : x.toNat = 0 ∨ 17 ≤ x.toNat) (base value : Byte) :
    runCommand (pinSet base x value) s = resultOnly s 0x03 0 ∧ runCommand (pinGet base x) s = resultOnly s 0x03 0 := by
  have hset : pinSet base x value = .err .invalidPin := by
    funext s
    simp only [pinSet, regOfPin_none hx]
  have hget : pinGet base x = .err .invalidPin := by
    funext s
    simp only [pinGet, regOfPin_none hx]
  rw [hset, hget]
  exact ⟨runCommand_rejected rfl hs, runCommand_rejected rfl hs⟩

/-- R173, R174: the per-port templates reject an invalid port before any bus call. -/
theorem runCommand_port_invalid (hx : 2 ≤ x.toNat) (base value : Byte) :
    runCommand (portWrite base x value) s = resultOnly s 0x04 0 ∧
      runCommand (portRead base x) s = resultOnly s 0x04 0 := by
  have hwrite : portWrite base x value = .err .invalidPort := by
    funext s
    simp only [portWrite, resolvePortOf_none hx]
  have hread : portRead base x = .err .invalidPort := by
    funext s
    simp only [portRead, resolvePortOf_none hx]
  rw [hwrite, hread]
  exact ⟨runCommand_rejected rfl hs, runCommand_rejected rfl hs⟩

/-- R208: so does `acknowledgeInterrupts`. -/
theorem exec_acknowledgeInterrupts_invalid (hx : 2 ≤ x.toNat) :
    exec (.acknowledgeInterrupts x) s = .next (resultOnly s 0x04 0) := by
  simp only [exec, execAcknowledgeInterrupts, resolvePortOf_none hx]
  exact congrArg _ (runCommand_rejected rfl hs)

end

/-- Settles O39: every command of the four templates rejects its operand as the template does. -/
theorem invalidPinsAndPortsMakeNoEvent : Obligations.InvalidPinsAndPortsMakeNoEvent := by
  refine fun s x value hs => ⟨fun hx => ⟨fun f hf => ?_, fun f hf => ?_⟩,
    fun hx => ⟨fun f hf => ?_, fun f hf => ?_, exec_acknowledgeInterrupts_invalid hs hx⟩⟩
  · rw [exec_pinSetter x value s f hf, (runCommand_pin_invalid hs hx f.1 value).1]
  · rw [exec_pinGetter x s f hf, (runCommand_pin_invalid hs hx f.1 value).2]
  · rw [exec_portWriter x value s f hf, (runCommand_port_invalid hs hx f.1 value).1]
  · rw [exec_portReader x s f hf, (runCommand_port_invalid hs hx f.1 value).2]

end Sys2Proof.Machine
end

/-! ## A per-pin setter whose read failed (O33) -/

section
namespace Sys2Proof.Machine
open Sys2Proof.Safety Sys2Proof.Claims

theorem busWrite_not_mem_openEvents (buf : List Byte) (k : Nat) (p : BusPath) (d r : Nat) (ok : Bool) :
    .busWrite buf k ∉ openEvents p d r ok := by
  induction r with
  | zero => simp [openEvents]
  | succ r ih => simpa [openEvents] using ih

/-- R136: whatever the bus answers, the only write transfer of a read transaction is that of the address byte. -/
theorem memRead_writes {a : SlaveAddr} {reg : Byte} {n : Nat} {s : State} (hs : s.handle = .closed) :
    ∃ evs, Transacted s (memRead a reg n s).state evs ∧ ∀ buf k, .busWrite buf k ∈ evs → buf = [reg] := by
  have only {r : Nat} {ok : Bool} {l : List Event} (hl : ∀ buf k, .busWrite buf k ∈ l → buf = [reg]) (buf : List Byte)
      (k : Nat) (h : .busWrite buf k ∈ openEvents s.busPath s.params.retryDelay r ok ++ l) : buf = [reg] :=
    (List.mem_append.1 h).elim (fun h => (busWrite_not_mem_openEvents _ _ _ _ _ _ h).elim) (hl buf k)
  rcases memRead_cases (slave := a) (reg := reg) (n := n) hs with ⟨t, h, ht, -⟩ | ⟨r, -, t, h, ht, -⟩ |
    ⟨r, -, t, h, ht, -⟩ | ⟨r, -, t, data, -, h, ht, -⟩ | ⟨r, -, t, data, -, h, ht, -⟩ <;> rw [h]
  · exact ⟨_, ht, fun buf k h => (busWrite_not_mem_openEvents _ _ _ _ _ _ h).elim⟩
  · exact ⟨_, ht, only (by simp)⟩
  · exact ⟨_, ht, only (by simp [boundEvents])⟩
  · exact ⟨_, ht, only (by simp [boundEvents])⟩
  · exact ⟨_, ht, only (by simp [boundEvents])⟩

/-- The frame of a read transaction of any outcome. -/
theorem memRead_onlyRead {a : SlaveAddr} {reg : Byte} {n : Nat} {s : State} (hs : s.handle = .closed) (hn : n ≤ 256) :
    OnlyRead s (memRead a reg n s).state a reg n := by
  obtain ⟨_, raw, -, hl, hd⟩ := memRead_state (a := a) (reg := reg) (n := n) hs
  exact onlyRead_of_regsAfterRead hn hl hd

/-- Settles O33: the setter posts the failure of its read, whose transaction is all that was done. -/
theorem failedReadIssuesNoWrite : Obligations.FailedReadIssuesNoWrite := by
  intro f hf s u e pin value reg bit hs hpin hfail
  have hbody : pinSet f.1 pin value (beginCommand s) = .err e u := by
    have hread : gpioRead reg (beginCommand s) = .err e u := congrArg (Res.andThen · _) hfail
    simp only [pinSet, regOfPin_of_pinAt hpin, hread, Res.andThen]
  obtain ⟨evs, ht, hwrites⟩ := memRead_writes (a := s.gpioAddr) (reg := reg) (n := 1) (s := beginCommand s) hs
  have honly := memRead_onlyRead (a := s.gpioAddr) (reg := reg) (n := 1) (s := beginCommand s) hs (by decide)
  rw [hfail] at ht honly
  have ht : Transacted (beginCommand s) u evs := ht
  refine ⟨postFailure e u, (exec_pinSetter pin value s f hf).trans (congrArg _ (runCommand_err hbody ht.handle)), rfl,
    rfl, e.code_ne_ok, ht.moved.rval, ht.sameRegisters_postFailure e, ⟨honly.known, honly.others⟩, fun buf k h => ?_⟩
  rw [postFailure_history, ht.moved.history] at h
  exact (List.mem_append.1 h).imp id (hwrites buf k)

end Sys2Proof.Machine
end

/-! ## Initialisation of the expander (O40, O41, O42)

`StepsLeave` says once what the steps of a plan leave, whatever the bus answers; it is shown of one transaction and
carried through `andThen`, `gpioWrites` and `gpioAcknowledge` to `initSteps`. -/

section
namespace Sys2Proof.Machine
open Sys2Proof.Safety Sys2Proof.Claims

/-! ### A command begun by step 0 (R209) -/

/-- The state a command ends in when its body left `u` with the handle closed (R8, R276). -/
inductive EndsAs (u : State) : State → Prop
  | returned : EndsAs u (finish u)
  | failed (f : Failure) : EndsAs u (postFailure f u)

section
variable {address : Byte} (haddress : address.toNat ≤ 0x7F) {flag : Bool} {s u t : State} {evs : List Event}
  (h : Transacted (latchInit (address.setWidth 7) flag (beginCommand s)) u evs)
  (ht : EndsAs u t)
include h ht

/-- However the command ends after step 0 and transactions, it has changed GPIOADDR, GPIORESETPOL and the result
registers only. -/
theorem Transacted.sameRegisters_init :
    SameRegisters s { t with gpioAddr := s.gpioAddr, gpioResetPol := s.gpioResetPol } := by
  cases ht <;>
    exact ⟨h.moved.busPath, rfl, rfl, h.moved.rtcCtrl, h.moved.century, h.moved.dbuf, h.moved.cmd, h.moved.host,
      h.moved.params, h.oracle, h.board, h.handle, rfl⟩

theorem Transacted.history_init : t.history = s.history ++ evs := by
  cases ht <;> exact h.moved.history

theorem Transacted.gpioResetPol_init : t.gpioResetPol = flag := by
  cases ht <;> exact h.moved.gpioResetPol

include haddress in
/-- R209: the address is the operand, or kept when that is zero. -/
theorem Transacted.gpioAddr_init : t.gpioAddr = addressAfterInit s address := by
  have hu : u.gpioAddr = addressAfterInit s address := h.moved.gpioAddr.trans (latchInit_gpioAddr_eq haddress flag _)
  cases ht <;> exact hu

omit ht in
theorem Transacted.results_init : Results (finish u) 0x00 0 0 :=
  ⟨rfl, h.moved.rval, congrArg BitVec.toNat h.moved.rlen⟩

end

/-! ### The steps of a plan, whatever the bus answers (R209, R210) -/

/-- A byte that a register is known to hold stays known when no step writes the register. -/
def KnownKept (s t : State) (a : SlaveAddr) (steps : List InitStep) : Prop :=
  ∀ (reg b : Byte), (∀ v, InitStep.write reg v ∉ steps) →
    Memory.read s.env.devRegs (regKey a reg.toNat) = some b → Memory.read t.env.devRegs (regKey a reg.toNat) = some b

/-- What the steps of a plan leave: all of them done, or the first of them, a failed one and nothing after it. -/
inductive StepsLeave {α : Type} (a : SlaveAddr) (steps : List InitStep) (s : State) : Res α → Prop
  | all {x : α} {t : State} (done : List (InitStep × Nat × Byte)) (hdone : done.map Prod.fst = steps)
    (ht : Transacted s t (done.flatMap (doneEvents s a))) (honly : OnlyTouched s t a (done.map Prod.fst))
    (hknown : KnownKept s t a steps) : StepsLeave a steps s (.ok x t)
  | stopped {f : Failure} {t : State} (done : List (InitStep × Nat × Byte)) (failed : List Event) (next : InitStep)
    (rest : List InitStep) (hsteps : done.map Prod.fst ++ next :: rest = steps)
    (ht : Transacted s t (done.flatMap (doneEvents s a) ++ failed)) (hfailed : failedEvents s a next failed)
    (hcause : (f.code = 0x01 ∧ OnlyTouched s t a (done.map Prod.fst)) ∨
      (f.code = 0x02 ∧ OnlyTouched s t a (done.map Prod.fst ++ [next])))
    (hknown : KnownKept s t a steps) : StepsLeave a steps s (.err f t)

theorem OnlyTouched.trans {s t u : State} {a : SlaveAddr} {xs ys : List InitStep} (h : OnlyTouched s t a xs)
    (h' : OnlyTouched t u a ys) : OnlyTouched s u a (xs ++ ys) := fun k hk =>
  (h' k fun x hx => hk x (List.mem_append_right _ hx)).trans (h k fun x hx => hk x (List.mem_append_left _ hx))

theorem KnownKept.mono {s t : State} {a : SlaveAddr} {xs ys : List InitStep} (h : KnownKept s t a xs) (hsub : xs ⊆ ys) :
    KnownKept s t a ys := fun reg b hys => h reg b fun v hv => hys v (hsub hv)

theorem KnownKept.trans {s t u : State} {a : SlaveAddr} {steps : List InitStep} (h : KnownKept s t a steps)
    (h' : KnownKept t u a steps) : KnownKept s u a steps := fun reg b hw hb => h' reg b hw (h reg b hw hb)

section
variable {s t : State} {evs : List Event} (h : Transacted s t evs)
include h

/-- The events of a step are the same after transactions, since the path and the parameters stay. -/
theorem Transacted.doneEvents_eq (a : SlaveAddr) : doneEvents t a = doneEvents s a := by
  funext ⟨x, r, b⟩
  cases x <;> simp only [doneEvents, writeEvents, readEvents, h.moved.busPath, h.moved.params]

theorem Transacted.failedEvents_iff (a : SlaveAddr) (x : InitStep) (l : List Event) :
    failedEvents t a x l ↔ failedEvents s a x l := by
  cases x <;> simp only [failedEvents, writeEvents, readEvents, h.moved.busPath, h.moved.params]

end

/-- The steps after steps. -/
theorem StepsLeave.andThen {α β : Type} {a : SlaveAddr} {xs ys : List InitStep} {s : State} {r : Res α}
    {f : α → State → Res β} (h : StepsLeave a xs s r)
    (hf : ∀ x t evs, Transacted s t evs → StepsLeave a ys t (f x t)) : StepsLeave a (xs ++ ys) s (r.andThen f) := by
  cases h with
  | stopped done failed next rest hsteps ht hfailed hcause hknown =>
    refine .stopped done failed next (rest ++ ys) ?_ ht hfailed hcause (hknown.mono (List.subset_append_left ..))
    rw [← hsteps, List.append_assoc, List.cons_append]
  | @all x t done hdone ht honly hknown =>
    have hlater := hf x t _ ht
    have hknown := hknown.mono (List.subset_append_left xs ys)
    show StepsLeave a (xs ++ ys) s (f x t)
    generalize f x t = r' at hlater
    cases hlater with
    | all done' hdone' ht' honly' hknown' =>
      rw [ht.doneEvents_eq] at ht'
      refine .all (done ++ done') ?_ ?_ ?_ (hknown.trans (hknown'.mono (List.subset_append_right ..)))
      · rw [List.map_append, hdone, hdone']
      · rw [List.flatMap_append]
        exact ht.trans ht'
      · rw [List.map_append]
        exact OnlyTouched.trans honly honly'
    | stopped done' failed next rest hsteps ht' hfailed hcause hknown' =>
      rw [ht.doneEvents_eq] at ht'
      refine .stopped (done ++ done') failed next rest ?_ ?_ ((ht.failedEvents_iff ..).1 hfailed) ?_
        (hknown.trans (hknown'.mono (List.subset_append_right ..)))
      · rw [List.map_append, List.append_assoc, hsteps, hdone]
      · rw [List.flatMap_append, List.append_assoc]
        exact ht.trans ht'
      · rw [List.map_append, List.append_assoc]
        exact hcause.imp (And.imp_right (OnlyTouched.trans honly)) (And.imp_right (OnlyTouched.trans honly))

/-- No steps. -/
theorem StepsLeave.nil {α : Type} {a : SlaveAddr} {s : State} (hs : s.handle = .closed) (x : α) :
    StepsLeave a [] s (.ok x s) :=
  .all [] rfl (Moved.closed_refl hs) (fun _ _ => rfl) fun _ _ _ hb => hb

/-! ### One step -/

theorem onlyTouched_of_sameDevices {s t : State} (h : t.env.devRegs = s.env.devRegs) (a : SlaveAddr)
    (steps : List InitStep) : OnlyTouched s t a steps := fun k _ => by rw [h]

theorem knownKept_of_sameDevices {s t : State} (h : t.env.devRegs = s.env.devRegs) (a : SlaveAddr)
    (steps : List InitStep) : KnownKept s t a steps := fun reg b _ hb => by rwa [h]

/-- However much of a one-byte write to a listed register the slave has taken, no other register has changed. -/
theorem onlyTouched_of_taken {s t : State} {a : SlaveAddr} {reg v : Byte} {j : Nat} (hreg : gpioListed reg.toNat = true)
    (hd : t.env.devRegs = regsAfterWrite s.env a ([reg, v].take j)) : OnlyTouched s t a [.write reg v] := by
  match j with
  | 0 => exact onlyTouched_of_sameDevices (hd.trans (regsAfterWrite_nil ..)) a _
  | 1 => exact onlyTouched_of_sameDevices (hd.trans (deviceTake_address_devRegs _ a reg 1 _)) a _
  | j + 2 =>
    rw [List.take_of_length_le (by simp)] at hd
    intro k hk
    refine onlyWritten_listed hreg hd k fun i hi => ?_
    obtain rfl : i = 0 := by omega
    exact hk _ (List.mem_singleton_self _)

/-- A write step leaves the other registers, and so every byte it does not write. -/
theorem knownKept_of_onlyTouched_write {s t : State} {a : SlaveAddr} {reg v : Byte}
    (h : OnlyTouched s t a [.write reg v]) : KnownKept s t a [.write reg v] := by
  intro reg' b hw hb
  rw [h _ fun x hx hk => ?_]
  · exact hb
  · obtain rfl := List.mem_singleton.1 hx
    have hkey := regKey_inj.1 hk
    have heq : reg' = reg := BitVec.eq_of_toNat_eq (by simp only [InitStep.reg] at hkey; omega)
    exact hw v (by rw [heq]; exact List.mem_singleton_self _)

/-- A step that writes a listed register (R134, R137). -/
theorem gpioWrite_leaves {a : SlaveAddr} {reg v : Byte} {s : State} (hs : s.handle = .closed) (ha : s.gpioAddr = a)
    (hreg : gpioListed reg.toNat = true) : StepsLeave a [.write reg v] s (gpioWrite reg v s) := by
  subst ha
  have unmade {t : State} {f : Failure} (evs : List Event) (hf : f.code = 0x01) (ht : Transacted s t evs)
      (hd : t.env.devRegs = s.env.devRegs) (hevs : failedEvents s s.gpioAddr (.write reg v) evs) :
      StepsLeave (α := Unit) s.gpioAddr [.write reg v] s (.err f t) :=
    .stopped [] evs _ [] rfl ht hevs (.inl ⟨hf, onlyTouched_of_sameDevices hd _ _⟩) (knownKept_of_sameDevices hd _ _)
  unfold gpioWrite
  rcases memWrite_cases (slave := s.gpioAddr) (reg := reg) (v := [v]) hs with ⟨t, h, ht, hd⟩ | ⟨r, hr, t, h, ht, hd⟩ |
    ⟨r, hr, t, k, hk, j, -, h, ht, -, hd⟩ | ⟨r, -, t, h, ht, hd⟩ <;> rw [h]
  · exact unmade _ rfl ht hd (.inl rfl)
  · exact unmade _ rfl ht hd (.inr (.inl ⟨r, hr, rfl⟩))
  · have honly := onlyTouched_of_taken hreg hd
    exact .stopped [] _ _ [] rfl ht (.inr (.inr ⟨r, hr, k, hk, rfl⟩)) (.inr ⟨rfl, honly⟩)
      (knownKept_of_onlyTouched_write honly)
  · have honly := onlyTouched_of_taken (v := v) (j := 2) hreg hd
    exact .all [(.write reg v, r, 0)] rfl (by simpa [doneEvents] using ht) honly (knownKept_of_onlyTouched_write honly)

/-- A step that reads a register and discards the byte (R133, R136). -/
theorem gpioRead_leaves {a : SlaveAddr} {reg : Byte} {s : State} (hs : s.handle = .closed) (ha : s.gpioAddr = a) :
    StepsLeave a [.acknowledge reg] s (gpioRead reg s) := by
  subst ha
  have hframe := memRead_onlyRead (a := s.gpioAddr) (reg := reg) (n := 1) hs (by decide)
  have honly : OnlyTouched s (memRead s.gpioAddr reg 1 s).state s.gpioAddr [.acknowledge reg] := fun k hk =>
    hframe.others k fun i hi => by
      obtain rfl : i = 0 := by omega
      exact hk _ (List.mem_singleton_self _)
  have hknown : KnownKept s (memRead s.gpioAddr reg 1 s).state s.gpioAddr [.acknowledge reg] :=
    fun reg b _ => hframe.known _ b
  unfold gpioRead
  rcases memRead_cases (slave := s.gpioAddr) (reg := reg) (n := 1) hs with ⟨t, h, ht, hd⟩ | ⟨r, hr, t, h, ht, hd⟩ |
    ⟨r, hr, t, h, ht, -⟩ | ⟨r, hr, t, data, hl, h, ht, -⟩ | ⟨r, -, t, data, hl, h, ht, -⟩ <;> rw [h] at honly hknown ⊢
  · exact .stopped [] _ _ [] rfl ht (.inl rfl) (.inl ⟨rfl, onlyTouched_of_sameDevices hd _ _⟩) hknown
  · exact .stopped [] _ _ [] rfl ht (.inr (.inl ⟨r, hr, rfl⟩)) (.inl ⟨rfl, onlyTouched_of_sameDevices hd _ _⟩) hknown
  · exact .stopped [] _ _ [] rfl ht (.inr (.inr ⟨r, hr, .inl rfl⟩)) (.inr ⟨rfl, honly⟩) hknown
  · obtain rfl : data = [] := List.eq_nil_of_length_eq_zero (by omega)
    exact .stopped [] _ _ [] rfl ht (.inr (.inr ⟨r, hr, .inr rfl⟩)) (.inr ⟨rfl, honly⟩) hknown
  · obtain ⟨b, rfl⟩ := List.length_eq_one_iff.1 hl
    exact .all [(.acknowledge reg, r, b)] rfl (by simpa [doneEvents] using ht) honly hknown

/-! ### The plan of an initialisation -/

/-- The write step of a register and a byte. -/
def writeStep (w : Byte × Byte) : InitStep := .write w.1 w.2

theorem gpioWrites_leaves {a : SlaveAddr} (ws : List (Byte × Byte)) : ∀ {s : State}, s.handle = .closed →
    s.gpioAddr = a → (∀ w ∈ ws, gpioListed w.1.toNat = true) →
    StepsLeave a (ws.map writeStep) s (gpioWrites ws s) := by
  induction ws with
  | nil => intro s hs _ _; exact .nil hs ()
  | cons w ws ih =>
    intro s hs ha hlisted
    obtain ⟨hw, hws⟩ := List.forall_mem_cons.1 hlisted
    exact (gpioWrite_leaves hs ha hw).andThen fun _ t _ ht => ih ht.handle (ht.moved.gpioAddr.trans ha) hws

theorem gpioAcknowledge_leaves {a : SlaveAddr} (regs : List Byte) : ∀ {s : State}, s.handle = .closed →
    s.gpioAddr = a → StepsLeave a (regs.map .acknowledge) s (gpioAcknowledge regs s) := by
  induction regs with
  | nil => intro s hs _; exact .nil hs ()
  | cons reg regs ih =>
    intro s hs ha
    exact (gpioRead_leaves hs ha).andThen fun _ t _ ht => ih ht.handle (ht.moved.gpioAddr.trans ha)

/-- R209: without the reset flag the plan is the chip configuration alone. -/
theorem initPlan_zero (p : Params) : initPlan p 0 = [.write chipConfiguration p.ioconInit] := rfl

/-- R209: with the reset flag twelve writes and two reads follow. -/
theorem initPlan_of_ne {flag : Byte} (h : flag ≠ 0) (p : Params) : initPlan p flag =
    [.write chipConfiguration p.ioconInit] ++
      ((resetWrites p).map writeStep ++ resetAcknowledges.map .acknowledge) := by
  rw [initPlan, if_neg h]
  rfl

theorem resetWrites_listed (p : Params) : ∀ w ∈ resetWrites p, gpioListed w.1.toNat = true := by
  simp [resetWrites, pairWrites, GpioPair.base, gpioListed]

/-- R209, R210: whatever the bus answers. -/
theorem initSteps_leaves {a : SlaveAddr} {s : State} (hs : s.handle = .closed) (ha : s.gpioAddr = a) (flag : Byte) :
    StepsLeave a (initPlan s.params flag) s (initSteps (boolOperand flag) s) := by
  have hconfigure : StepsLeave a [.write chipConfiguration s.params.ioconInit] s
      (gpioWrite chipConfiguration s.params.ioconInit s) := gpioWrite_leaves hs ha rfl
  unfold initSteps
  by_cases hflag : flag = 0
  · subst hflag
    rw [initPlan_zero]
    exact hconfigure.andThen fun _ t _ ht => .nil ht.handle ()
  · rw [initPlan_of_ne hflag]
    refine hconfigure.andThen fun _ t _ ht => ?_
    have hat := ht.moved.gpioAddr.trans ha
    have hbool : boolOperand flag = true := decide_eq_true hflag
    rw [if_pos hbool, ht.moved.params]
    exact (gpioWrites_leaves _ ht.handle hat (resetWrites_listed _)).andThen fun _ u _ hu =>
      gpioAcknowledge_leaves _ hu.handle (hu.moved.gpioAddr.trans hat)

/-- The plan writes neither capture register. -/
theorem write_capture_not_mem_initPlan {reg : Byte} (hreg : reg = 0x10#8 ∨ reg = 0x11#8) (v : Byte) (p : Params)
    (flag : Byte) : InitStep.write reg v ∉ initPlan p flag := by
  unfold initPlan
  rcases hreg with rfl | rfl <;> split <;> simp

/-- What the capture registers are known to hold is kept by the plan, which only reads them. -/
theorem KnownKept.captures {s t : State} {a : SlaveAddr} {p : Params} {flag : Byte}
    (h : KnownKept s t a (initPlan p flag)) :
    ∀ reg ∈ [0x10, 0x11], ∀ v, Memory.read s.env.devRegs (regKey a reg) = some v →
      Memory.read t.env.devRegs (regKey a reg) = some v := by
  simp only [List.forall_mem_cons, List.not_mem_nil, false_imp_iff, implies_true, and_true]
  exact ⟨fun v => h 0x10#8 v fun w => write_capture_not_mem_initPlan (.inl rfl) w p flag,
    fun v => h 0x11#8 v fun w => write_capture_not_mem_initPlan (.inr rfl) w p flag⟩

/-- A step done of a plan that begins with the chip configuration leaves its transaction in the history (R303). -/
theorem configured_of_done {s : State} {a : SlaveAddr} {v : Byte} {steps : List InitStep}
    {done : List (InitStep × Nat × Byte)} (h : done.map Prod.fst = .write chipConfiguration v :: steps) :
    ∃ pre post, done.flatMap (doneEvents s a) = pre ++ boundEvents a [.busWrite [chipConfiguration, v] 2] ++ post := by
  obtain ⟨⟨x, r, b⟩, later, rfl, rfl, -⟩ := List.map_eq_cons_iff.1 h
  exact ⟨openEvents s.busPath s.params.retryDelay r true, later.flatMap (doneEvents s a), rfl⟩

/-! ### The commands -/

/-- Settles O42: `initSteps_leaves` after step 0, by whether the steps ended in a success. -/
theorem initializeStopsAtTheFirstFailedStep : Obligations.InitializeStopsAtTheFirstFailedStep := by
  intro s address flag hs haddress
  have hexec := exec_initialize_legal haddress flag s
  have hleaves := initSteps_leaves (a := addressAfterInit s address)
    (s := latchInit (address.setWidth 7) (boolOperand flag) (beginCommand s)) hs
    (latchInit_gpioAddr_eq haddress _ _) flag
  generalize hr : initSteps (boolOperand flag) (latchInit (address.setWidth 7) (boolOperand flag) (beginCommand s)) = r
    at hleaves
  cases hleaves with
  | @all x u done hdone ht honly hknown =>
    have hend : EndsAs u (finish u) := .returned
    refine ⟨finish u, done, [], hexec.trans (congrArg _ (runCommand_ok hr)), ht.gpioAddr_init haddress hend,
      ht.gpioResetPol_init hend, ht.sameRegisters_init hend, ?_, .inl ⟨rfl, hdone, rfl, honly, ?_⟩, hknown.captures⟩
    · rw [List.append_nil]
      exact ht.history_init hend
    · obtain ⟨pre, post, hevents⟩ := configured_of_done (s := latchInit (address.setWidth 7) (boolOperand flag)
        (beginCommand s)) (a := addressAfterInit s address) hdone
      refine ⟨s.history ++ pre, post, (ht.history_init hend).trans ?_⟩
      rw [finish_params, ht.moved.params]
      simpa using hevents
  | @stopped f u done failed next rest hsteps ht hfailed hcause hknown =>
    have hend : EndsAs u (postFailure f u) := .failed f
    refine ⟨postFailure f u, done, failed, hexec.trans (congrArg _ (runCommand_err hr ht.handle)),
      ht.gpioAddr_init haddress hend, ht.gpioResetPol_init hend, ht.sameRegisters_init hend,
      (ht.history_init hend).trans (List.append_assoc ..).symm, .inr ⟨next, rest, hsteps, hfailed, hcause⟩,
      hknown.captures⟩

/-- Settles O40: the one write of the plan is granted. -/
theorem initializeWithoutResetWritesOneRegister : Obligations.InitializeWithoutResetWritesOneRegister := by
  intro s address r _ haddress hg
  obtain ⟨u, hwrite, ht, hothers, -⟩ := gpioWrite_granted (reg := chipConfiguration) (v := s.params.ioconInit) rfl
    (writeGranted_latchInit (a := address.setWidth 7) (flag := false) (writeGranted_beginCommand hg))
  have hbody : initSteps false (latchInit (address.setWidth 7) false (beginCommand s)) = .ok () u := by
    simp only [initSteps, latchInit_params, beginCommand_params, hwrite, Res.andThen, Bool.false_eq_true, if_false]
  have hend : EndsAs u (finish u) := .returned
  have haddr := latchInit_gpioAddr_eq haddress false (beginCommand s)
  have hhistory := ht.history_init hend
  rw [haddr] at hothers hhistory
  exact ⟨finish u, (exec_initialize_legal haddress 0 s).trans (congrArg _ (runCommand_ok hbody)),
    ht.gpioAddr_init haddress hend, ht.gpioResetPol_init hend, ht.results_init,
    hhistory, ht.sameRegisters_init hend, hothers⟩

/-- The two acknowledging reads, granted (R208, R209). -/
theorem gpioAcknowledge_both_granted_events {s : State} (hA : ReadGranted s 0 0 1) (hB : ReadGranted s 4 0 1) :
    ∃ t x y, gpioAcknowledge resetAcknowledges s = .ok () t ∧
      Transacted s t (readEvents s 0 s.gpioAddr 0x10 1 [x] ++ readEvents s 0 s.gpioAddr 0x11 1 [y]) := by
  obtain ⟨u, x, hx, hu, hans, -⟩ := gpioRead_granted (reg := 0x10#8) hA
  obtain ⟨t, y, hy, ht, -, -⟩ := gpioRead_granted (reg := 0x11#8) (readGranted_later hans rfl hu hB)
  refine ⟨t, x, y, ?_, ?_⟩
  · show gpioAcknowledge [0x10#8, 0x11#8] s = _
    simp only [gpioAcknowledge, hx, hy, Res.andThen]
  · have hevents := hu.trans ht
    simp only [readEvents, hu.moved.busPath, hu.moved.params, hu.moved.gpioAddr] at hevents
    exact hevents

/-- The thirteen writes of an initialisation with the reset flag (R209). -/
abbrev initWrites (p : Params) : List (Byte × Byte) := (chipConfiguration, p.ioconInit) :: resetWrites p

/-- The chip configuration and the twelve writes after it are one list of writes. -/
theorem initSteps_true_eq {s : State} (hs : s.handle = .closed) : initSteps true s =
    (gpioWrites (initWrites s.params) s).andThen fun _ u => gpioAcknowledge resetAcknowledges u := by
  have htalked := gpioWrite_talked (reg := chipConfiguration) (v := s.params.ioconInit) hs rfl
  simp only [initSteps, gpioWrites, if_true]
  cases hr : gpioWrite chipConfiguration s.params.ioconInit s with
  | err f u => rfl
  | ok x u =>
    rw [hr] at htalked
    obtain ⟨_, hm⟩ := htalked.moved
    have hp : u.params = s.params := hm.params
    simp only [Res.andThen, hp]

/-- The fifteen transactions of an initialisation with the reset flag, each open granted at once (R209). -/
theorem initSteps_granted_events {s : State} (hs : s.handle = .closed) (hw : ∀ j < 13, WriteGranted s (3 * j) 0 1)
    (hA : ReadGranted s 39 0 1) (hB : ReadGranted s 43 0 1) :
    ∃ t x y, initSteps true s = .ok () t ∧
      Transacted s t ((initWrites s.params).flatMap (fun w => writeEvents s 0 s.gpioAddr w.1 [w.2] 2) ++
        (readEvents s 0 s.gpioAddr 0x10 1 [x] ++ readEvents s 0 s.gpioAddr 0x11 1 [y])) := by
  obtain ⟨u, hwrites, hu, hans⟩ := gpioWrites_granted (initWrites s.params) hs hw
  obtain ⟨t, x, y, hacks, ht⟩ := gpioAcknowledge_both_granted_events
    (readGranted_later hans rfl hu hA) (readGranted_later hans rfl hu hB)
  refine ⟨t, x, y, ?_, ?_⟩
  · simp only [initSteps_true_eq hs, hwrites, hacks, Res.andThen]
  · have hevents := hu.trans ht
    simp only [readEvents, hu.moved.busPath, hu.moved.params, hu.moved.gpioAddr] at hevents
    exact hevents

/-- R209: the writes of the plan. -/
theorem initPlan_take {flag : Byte} (h : flag ≠ 0) (p : Params) :
    (initPlan p flag).take 13 = (initWrites p).map writeStep := by
  rw [initPlan_of_ne h]
  rfl

/-- R209: the registers of the plan. -/
theorem initPlan_regs {flag : Byte} (h : flag ≠ 0) (p : Params) : (initPlan p flag).map (·.reg.toNat) =
    [0x0A, 0x12, 0x13, 0x00, 0x01, 0x0C, 0x0D, 0x02, 0x03, 0x04, 0x05, 0x06, 0x07, 0x10, 0x11] := by
  rw [initPlan_of_ne h]
  rfl

/-- Settles O41: the events by `initSteps_granted_events`, the frame by `initSteps_leaves`. -/
theorem initializeWithResetMakesFifteenTransactions : Obligations.InitializeWithResetMakesFifteenTransactions := by
  intro s address flag hs haddress hflag hw hA hB
  have hbool : boolOperand flag = true := decide_eq_true hflag
  have haddr := latchInit_gpioAddr_eq haddress true (beginCommand s)
  obtain ⟨u, x, y, hsteps, ht⟩ := initSteps_granted_events
    (s := latchInit (address.setWidth 7) true (beginCommand s)) hs
    (fun j hj => writeGranted_latchInit (writeGranted_beginCommand (hw j hj)))
    (readGranted_latchInit (readGranted_beginCommand hA)) (readGranted_latchInit (readGranted_beginCommand hB))
  have hleaves := initSteps_leaves (s := latchInit (address.setWidth 7) true (beginCommand s)) hs haddr flag
  have hexec := exec_initialize_legal haddress flag s
  rw [hbool] at hleaves hexec
  rw [hsteps] at hleaves
  have hend : EndsAs u (finish u) := .returned
  have hhistory := ht.history_init hend
  rw [haddr, ← List.append_assoc, ← List.append_assoc] at hhistory
  cases hleaves with
  | all done hdone _ honly hknown =>
    refine ⟨finish u, x, y, hexec.trans (congrArg _ (runCommand_ok hsteps)), ht.gpioAddr_init haddress hend,
      ht.gpioResetPol_init hend, ht.results_init, ?_,
      ht.sameRegisters_init hend, hknown.captures, fun k hk => honly k fun step hstep => hk _ ?_⟩
    · rw [initPlan_take hflag, List.flatMap_map]
      exact hhistory
    · rw [← initPlan_regs hflag s.params]
      exact List.mem_map_of_mem (hdone ▸ hstep)

end Sys2Proof.Machine
end

/-! ## The memory range check and the failed RTC commands (O45, O47, O49) -/

section
namespace Sys2Proof.Machine
open Sys2Proof.Safety Sys2Proof.Claims

/-- Settles O49: outside the window, by `inWindow_iff`, both commands reject their operands before any bus call. -/
theorem memoryRangeCheck : Obligations.MemoryRangeCheck := by
  intro s address length hs hout
  have hw : ¬ inWindow s.params address length = true := inWindow_iff.not.2 hout
  have rejected {body : State → Res Unit}
      (hbody : body (beginCommand s) = .err .memoryRangeError (beginCommand s)) :
      runCommand body s = resultOnly s 0x05 0 :=
    (runCommand_congr hbody).trans (runCommand_rejected rfl hs)
  exact ⟨congrArg _ (rejected (if_neg hw)), congrArg _ (rejected (if_neg hw))⟩

/-- Settles O47: a command that did not end OK failed in its one write, before the shadow is touched. -/
theorem failedControlWriteKeepsTheShadow : Obligations.FailedControlWriteKeepsTheShadow := by
  intro i s t new hs hnew h hfail
  cases (exec_output hnew).symm.trans h
  obtain ⟨evs, _, ht, -⟩ := memWrite_state (a := Config.rtcAddr) (reg := RtcReg.control.addr) (v := [new])
    (s := beginCommand s) hs
  have honly : OnlyWritten s (memWrite Config.rtcAddr RtcReg.control.addr [new] (beginCommand s)).state 0x68 0x07 1 :=
    fun _ hx => memWrite_rtc_others (s := beginCommand s) (v := [new]) hs (by simp [RtcReg.addr]) hx
  cases hw : memWrite Config.rtcAddr RtcReg.control.addr [new] (beginCommand s) with
  | ok x u =>
    rw [runCommand_ok (t := { u with rtcCtrl := new }) (by rw [writeControl, hw]; rfl)] at hfail
    exact absurd rfl hfail
  | err f u =>
    rw [hw] at ht honly
    have ht : Transacted (beginCommand s) u evs := ht
    rw [runCommand_err (by rw [writeControl, hw]; rfl) ht.handle]
    exact ⟨ht.sameRegisters_postFailure f, ht.moved.rval, honly⟩

/-! ### setDate and readDate (R234, R235, R279) -/

/-- What the result registers tell of a failed transaction that could count up to `n`: an unavailable bus with the
devices as they were, or a short transfer with its count (R271, R272). -/
def FailedResult (s t : State) (n : Nat) : Prop :=
  t.status = 0x01 ∧ t.rlen = 0 ∧ SameDevices s t ∨ t.status = 0x02 ∧ t.rlen.toNat ≤ n

theorem FailedResult.rlen_le {s t : State} {n : Nat} (h : FailedResult s t n) : t.rlen.toNat ≤ n := by
  rcases h with ⟨-, hrlen, -⟩ | ⟨-, hrlen⟩
  · rw [hrlen]
    exact Nat.zero_le n
  · exact hrlen

theorem FailedResult.mono {s t : State} {m n : Nat} (h : FailedResult s t m) (hmn : m ≤ n) : FailedResult s t n :=
  h.imp_right fun ⟨hstatus, hrlen⟩ => ⟨hstatus, hrlen.trans hmn⟩

/-- A command that is one write into the RTC's registers, and that did not end OK (R137, R272). -/
theorem runCommand_memWrite_rtc_failed {reg : Byte} {v : List Byte} {s t : State} (hs : s.handle = .closed)
    (hr : reg.toNat + v.length ≤ 0x3F) (ht : t = runCommand (memWrite Config.rtcAddr reg v) s)
    (hfail : t.status ≠ 0x00) :
    SameRegisters s t ∧ t.rval = 0 ∧ FailedResult s t v.length ∧ OnlyWritten s t Config.rtcAddr reg v.length := by
  subst ht
  have honly : OnlyWritten s (runCommand (memWrite Config.rtcAddr reg v) s) Config.rtcAddr reg v.length := by
    intro x hx
    rw [(runCommand_keeps (memWrite_talked (s := beginCommand s) hs).handle).2]
    exact memWrite_rtc_others (s := beginCommand s) hs (by omega) hx
  obtain ⟨hregs, hresult⟩ := runCommand_memWrite_failed hs (by omega) rfl hfail
  rcases hresult with ⟨⟨hstatus, hrval, hrlen⟩, hd⟩ | ⟨_, k, _, hk, -, -, ⟨hstatus, hrval, hrlen⟩, -⟩
  · exact ⟨hregs, hrval, .inl ⟨hstatus, BitVec.eq_of_toNat_eq hrlen, hd⟩, honly⟩
  · exact ⟨hregs, hrval, .inr ⟨hstatus, hrlen.trans_le hk⟩, honly⟩

/-- R234: `setDate` is one write of the seven wire bytes. -/
theorem exec_setDate (s : State) : exec .setDate s =
    .next (runCommand (memWrite Config.rtcAddr RtcReg.seconds.addr (calendarToWire s.dbuf)) s) :=
  congrArg Host.Outcome.next (runCommand_congr rfl)

/-- A `setDate` that did not end OK failed in its one write, of seven bytes (R234). -/
theorem exec_setDate_failed {s t : State} (hs : s.handle = .closed) (h : exec .setDate s = .next t)
    (hfail : t.status ≠ 0x00) :
    SameRegisters s t ∧ t.rval = 0 ∧ FailedResult s t 7 ∧ OnlyWritten s t Config.rtcAddr 0x00 7 := by
  rw [exec_setDate, Host.Outcome.next.injEq] at h
  exact runCommand_memWrite_rtc_failed hs (by simp [RtcReg.addr, calendarToWire]) h.symm hfail

/-- A failed read transaction: the bus was unavailable and no device register changed, or it reports fewer bytes than
asked (R131, R133). -/
theorem memRead_err {a : SlaveAddr} {reg : Byte} {n : Nat} {s u : State} {f : Failure} (hs : s.handle = .closed)
    (hn : 0 < n) (h : memRead a reg n s = .err f u) :
    (f = .busUnavailable ∧ SameDevices s u) ∨ ∃ data, f = .shortTransfer data.length data ∧ data.length < n := by
  rcases memRead_cases (slave := a) (reg := reg) (n := n) hs with ⟨u, hr, -, hd⟩ | ⟨r, -, u, hr, -, hd⟩ |
    ⟨r, -, u, hr, -⟩ | ⟨r, -, u, data, hl, hr, -⟩ | ⟨r, -, u, data, -, hr, -⟩ <;> rw [hr] at h <;> cases h
  · exact .inl ⟨rfl, hd⟩
  · exact .inl ⟨rfl, hd⟩
  · exact .inr ⟨[], rfl, hn⟩
  · exact .inr ⟨data, rfl, hl⟩

/-- A `readDate` that did not end OK failed in its one read, before the mailbox is touched (R235). -/
theorem exec_readDate_failed {s t : State} (hs : s.handle = .closed) (h : exec .readDate s = .next t)
    (hfail : t.status ≠ 0x00) :
    SameRegisters s t ∧ t.rval = 0 ∧ FailedResult s t 6 ∧ OnlyRead s t Config.rtcAddr 0x00 7 := by
  obtain ⟨evs, _, ht, -⟩ := memRead_state (a := Config.rtcAddr) (reg := RtcReg.seconds.addr) (n := 7)
    (s := beginCommand s) hs
  have honly := memRead_onlyRead (a := Config.rtcAddr) (reg := RtcReg.seconds.addr) (n := 7) (s := beginCommand s) hs
    (by decide)
  cases h
  cases hr : memRead Config.rtcAddr RtcReg.seconds.addr 7 (beginCommand s) with
  | ok wire u =>
    rw [runCommand_ok (by rw [hr]; rfl)] at hfail
    exact absurd rfl hfail
  | err f u =>
    rw [hr] at ht honly
    have ht : Transacted (beginCommand s) u evs := ht
    rw [runCommand_err (by rw [hr]; rfl) ht.handle]
    refine ⟨ht.sameRegisters_postFailure f, ht.moved.rval, ?_, ⟨honly.known, honly.others⟩⟩
    rcases memRead_err (s := beginCommand s) hs (by decide) hr with ⟨rfl, hd⟩ | ⟨data, rfl, hl⟩
    · exact .inl ⟨rfl, ht.moved.rlen, hd⟩
    · obtain ⟨hstatus, -, hrlen⟩ := ht.results_shortTransfer (k := data.length) (by omega) data
      exact .inr ⟨hstatus, hrlen.trans_le (Nat.le_of_lt_succ hl)⟩

/-- Settles O45: each command posts the failure of its one transaction. -/
theorem failedCalendarCommandsLeaveDbuf : Obligations.FailedCalendarCommandsLeaveDbuf := by
  intro i s t hi hs h hfail
  rcases hi with rfl | rfl
  · obtain ⟨hregs, hrval, hresult, honly⟩ := exec_setDate_failed hs h hfail
    exact ⟨hregs, hrval, hresult, fun _ => honly, nofun⟩
  · obtain ⟨hregs, hrval, hresult, honly⟩ := exec_readDate_failed hs h hfail
    exact ⟨hregs, hrval, hresult.mono (by decide), nofun, fun _ => ⟨hresult.rlen_le, honly⟩⟩

end Sys2Proof.Machine
end

/-! ## The BCD codec and the frequency table (O30, O31, O48) -/

section
namespace Sys2Proof.Machine
open Sys2Proof.Claims

/-! ### The codec (R231 to R233) -/

/-- R231: the decimal of any byte is at most 165, so nothing is cut off. -/
theorem bcdToDecimalOf_toNat (b : Byte) : (bcdToDecimalOf b).toNat = b.toNat / 16 * 10 + b.toNat % 16 := by
  rw [bcdToDecimalOf, BitVec.toNat_ofNat]
  omega

theorem decimalToBcdOf_toNat (v : Byte) : (decimalToBcdOf v).toNat = (v.toNat / 10 * 16 + v.toNat % 10) % 256 := by
  rw [decimalToBcdOf, BitVec.toNat_ofNat]

/-- From 160 on the high nibble is cut off, and the round trip gives the value less 160. -/
theorem bcdToDecimalOf_decimalToBcdOf_ne {v : Byte} (h : 160 ≤ v.toNat) : bcdToDecimalOf (decimalToBcdOf v) ≠ v := by
  intro heq
  have hv := congrArg BitVec.toNat heq
  rw [bcdToDecimalOf_toNat, decimalToBcdOf_toNat] at hv
  omega

/-- A low nibble above 9 carries into the high one; any other byte comes back. -/
theorem decimalToBcdOf_bcdToDecimalOf_iff (b : Byte) :
    decimalToBcdOf (bcdToDecimalOf b) = b ↔ b.toNat % 16 ≤ 9 := by
  rw [← BitVec.toNat_inj, decimalToBcdOf_toNat, bcdToDecimalOf_toNat]
  omega

/-- Settles O30: both directions of each round trip. -/
theorem codecRoundTrips : Obligations.CodecRoundTrips := by
  refine ⟨fun v => ⟨fun heq => ?_, bcdToDecimalOf_decimalToBcdOf⟩,
    fun b _ hlow => (decimalToBcdOf_bcdToDecimalOf_iff b).2 hlow, decimalToBcdOf_bcdToDecimalOf_iff⟩
  by_contra hbig
  exact bcdToDecimalOf_decimalToBcdOf_ne (by omega) heq

/-- R94: OPC 0x30 and 0x31 have their operand in `A` and ignore `B` and `C`. -/
theorem decode_codec (b x y : Byte) : decode (packWord 0x30 b x y) = .ok (.bcdToDecimal b) ∧
    decode (packWord 0x31 b x y) = .ok (.decimalToBcd b) := by
  simp [decode]

theorem exec_bcdToDecimal (b : Byte) (s : State) :
    exec (.bcdToDecimal b) s = .next (resultOnly s 0x00 ((bcdToDecimalOf b).setWidth 16)) := rfl

theorem exec_decimalToBcd (v : Byte) (s : State) :
    exec (.decimalToBcd v) s = .next (resultOnly s 0x00 ((decimalToBcdOf v).setWidth 16)) := rfl

/-- Settles O31: the words by their fields, the results by the value of each formula. -/
theorem codecCommandsReturnTheFormulas : Obligations.CodecCommandsReturnTheFormulas := by
  intro b x y s
  obtain ⟨hbcd, hdec⟩ := decode_codec b x y
  refine ⟨hbcd, hdec, ?_, ?_⟩
  · rw [exec_bcdToDecimal, ← BitVec.ofNat_toNat, bcdToDecimalOf_toNat]
  · rw [exec_decimalToBcd, ← BitVec.ofNat_toNat, decimalToBcdOf_toNat]

/-! ### The frequency table (R238) -/

/-- The control byte of `setFrequency`, each bit by the codes that clear it. -/
theorem frequencyControl_eq (p : Params) (shadow code : Byte) : frequencyControl p shadow code =
    setBitOf (setBitOf shadow p.rs0Bit (decide (code ≠ 1 ∧ code ≠ 3))) p.rs1Bit (decide (code ≠ 1 ∧ code ≠ 2)) :=
  (Option.some_injective _ (controlByte_setFrequency p shadow code)).symm

/-- A bit that two codes clear. -/
theorem ite_cleared (code c1 c2 : Byte) : (if decide (code ≠ c1 ∧ code ≠ c2) = true then (1 : Byte) else 0) =
    if code = c1 ∨ code = c2 then 0 else 1 := by
  by_cases h1 : code = c1
  · simp [h1]
  · by_cases h2 : code = c2 <;> simp [h1, h2]

/-- Settles O48: RS1 is set last; RS0 and every other bit are read below it. -/
theorem frequencyTable : Obligations.FrequencyTable := by
  intro p shadow code hne
  rw [frequencyControl_eq]
  refine ⟨?rs0, ?rs1, fun j h0 h1 => ?other⟩
  case rs0 => rw [testBitOf_setBitOf_other _ _ hne, testBitOf_setBitOf_same, ite_cleared]
  case rs1 => rw [testBitOf_setBitOf_same, ite_cleared]
  case other => rw [testBitOf_setBitOf_other _ _ h1, testBitOf_setBitOf_other _ _ h0]

end Sys2Proof.Machine
end

/-! ## The STATUS codes of each command (O56)

A failure's code depends on the piece that raised it alone, not on the handle or on what happened before, so the codes a
piece can fail with compose through `andThen` (R278). -/

section
namespace Sys2Proof.Machine

/-- A piece of a command that fails with these codes only. -/
inductive FailsWith {α : Type} (codes : List Byte) : Res α → Prop
  | ok (a : α) (s : State) : FailsWith codes (.ok a s)
  | err {f : Failure} (hf : f.code ∈ codes) (s : State) : FailsWith codes (.err f s)

section
variable {α β : Type} {codes codes' : List Byte}

theorem FailsWith.mono {r : Res α} (h : FailsWith codes r) (hsub : codes ⊆ codes') : FailsWith codes' r := by
  cases h with
  | ok a s => exact .ok a s
  | err hf s => exact .err (hsub hf) s

theorem FailsWith.andThen {r : Res α} {f : α → State → Res β} (h : FailsWith codes r)
    (hf : ∀ a s, FailsWith codes (f a s)) : FailsWith codes (r.andThen f) := by
  cases h with
  | ok a s => exact hf a s
  | err hg s => exact .err hg s

theorem FailsWith.mapState {r : Res α} (h : FailsWith codes r) (g : State → State) : FailsWith codes (r.mapState g) := by
  cases h with
  | ok a s => exact .ok a (g s)
  | err hf s => exact .err hf (g s)

theorem FailsWith.deliver {r : Res (List Byte)} (h : FailsWith codes r) : FailsWith codes (Machine.deliver r) := by
  cases h with
  | ok data s => exact .ok () _
  | @err f hf s => cases f <;> exact .err hf _

end

/-! ### Transactions fail with `BusUnavailable` or `ShortTransfer` (R131, R133, R134) -/

/-- The codes of `BusUnavailable` and `ShortTransfer` (R270). -/
def busCodes : List Byte := [0x01, 0x02]

theorem openTransaction_failsWith (a : SlaveAddr) (s : State) : FailsWith busCodes (openTransaction a s) := by
  unfold openTransaction
  split
  · exact .err (by decide) _
  · split
    · exact .err (by decide) _
    · exact .ok () _

theorem shortTransfer_mem_busCodes (k : Nat) (data : List Byte) : (Failure.shortTransfer k data).code ∈ busCodes := by
  simp [Failure.code, busCodes]

theorem readBytes_failsWith (reg : Byte) (n : Nat) (s : State) : FailsWith busCodes (readBytes reg n s) := by
  simp only [readBytes]
  split
  · exact .err (shortTransfer_mem_busCodes ..) _
  · split
    · exact .err (shortTransfer_mem_busCodes ..) _
    · exact .ok _ _

theorem writeBytes_failsWith (reg : Byte) (v : List Byte) (s : State) : FailsWith busCodes (writeBytes reg v s) := by
  simp only [writeBytes]
  split
  · exact .err (shortTransfer_mem_busCodes ..) _
  · exact .ok () _

theorem memRead_failsWith (a : SlaveAddr) (reg : Byte) (n : Nat) (s : State) : FailsWith busCodes (memRead a reg n s) :=
  (openTransaction_failsWith a s).andThen fun _ u => (readBytes_failsWith reg n u).mapState close

theorem memWrite_failsWith (a : SlaveAddr) (reg : Byte) (v : List Byte) (s : State) :
    FailsWith busCodes (memWrite a reg v s) :=
  (openTransaction_failsWith a s).andThen fun _ u => (writeBytes_failsWith reg v u).mapState close

/-! ### The driver templates add the code of the operand they check (R171 to R174, R208, R209, R236) -/

theorem gpioRead_failsWith (reg : Byte) (s : State) : FailsWith busCodes (gpioRead reg s) :=
  (memRead_failsWith ..).andThen fun _ _ => .ok _ _

theorem gpioWrite_failsWith (reg v : Byte) (s : State) : FailsWith busCodes (gpioWrite reg v s) :=
  memWrite_failsWith ..

theorem gpioWrites_failsWith (ws : List (Byte × Byte)) : ∀ s : State, FailsWith busCodes (gpioWrites ws s) := by
  induction ws with
  | nil => exact fun s => .ok () s
  | cons w ws ih => exact fun s => (gpioWrite_failsWith w.1 w.2 s).andThen fun _ u => ih u

theorem gpioAcknowledge_failsWith (regs : List Byte) : ∀ s : State, FailsWith busCodes (gpioAcknowledge regs s) := by
  induction regs with
  | nil => exact fun s => .ok () s
  | cons reg regs ih => exact fun s => (gpioRead_failsWith reg s).andThen fun _ u => ih u

theorem initSteps_failsWith (flag : Bool) (s : State) : FailsWith busCodes (initSteps flag s) := by
  refine (gpioWrite_failsWith ..).andThen fun _ u => ?_
  split
  · exact (gpioWrites_failsWith _ u).andThen fun _ v => gpioAcknowledge_failsWith _ v
  · exact .ok () u

theorem writeControl_failsWith (new : Byte) (s : State) : FailsWith busCodes (writeControl new s) :=
  (memWrite_failsWith ..).andThen fun _ _ => .ok () _

theorem pinSet_failsWith (base pin value : Byte) (s : State) : FailsWith [0x01, 0x02, 0x03] (pinSet base pin value s) := by
  unfold pinSet
  split
  · exact .err (by decide) s
  · exact ((gpioRead_failsWith ..).andThen fun _ u => gpioWrite_failsWith _ _ u).mono (by decide)

theorem pinGet_failsWith (base pin : Byte) (s : State) : FailsWith [0x01, 0x02, 0x03] (pinGet base pin s) := by
  unfold pinGet
  split
  · exact .err (by decide) s
  · exact ((gpioRead_failsWith ..).andThen fun _ _ => .ok () _).mono (by decide)

theorem portWrite_failsWith (base port value : Byte) (s : State) :
    FailsWith [0x01, 0x02, 0x04] (portWrite base port value s) := by
  unfold portWrite
  split
  · exact .err (by decide) s
  · exact (gpioWrite_failsWith ..).mono (by decide)

theorem portRead_failsWith (base port : Byte) (s : State) : FailsWith [0x01, 0x02, 0x04] (portRead base port s) := by
  unfold portRead
  split
  · exact .err (by decide) s
  · exact ((gpioRead_failsWith ..).andThen fun _ _ => .ok () _).mono (by decide)

/-! ### Commands -/

/-- R8, R276: STATUS is OK, or the code of the failure that the body met. -/
theorem endCommand_status {r : Res Unit} {codes : List Byte} (h : FailsWith codes r) :
    (endCommand r).status ∈ 0x00#8 :: codes := by
  cases h with
  | ok x s => exact List.mem_cons_self
  | err hf s => exact List.mem_cons_of_mem _ hf

/-- Settles O56: a command adds to the codes of its template, or of its transactions, those of the operands it checks
itself. -/
theorem statusCodesOfEachCommand : Obligations.StatusCodesOfEachCommand := by
  intro i s _
  have ends {body : State → Res Unit} {codes : List Byte} (h : FailsWith codes (body (beginCommand s))) :
      ∃ t, (.next (runCommand body s) : Host.Outcome State Fault Refusal) = .next t ∧ t.status ∈ 0x00#8 :: codes :=
    ⟨_, rfl, endCommand_status h⟩
  have illegal {codes : List Byte} (h : 0xFF#8 ∈ codes) :
      ∃ t, (.next (illegalCommand s) : Host.Outcome State Fault Refusal) = .next t ∧ t.status ∈ 0x00#8 :: codes :=
    ends (.err h _)
  cases i
  case busSetup | bcdToDecimal | decimalToBcd | setCentury => exact ends (.ok () _)
  case setBit | testBit =>
    simp only [exec, execSetBit, execTestBit]
    split
    · exact ends (.ok () _)
    · exact illegal (by decide)
  case resolvePin | resolvePort =>
    refine ends ?_
    split
    · exact .err (by decide) _
    · exact .ok () _
  case i2cRead =>
    simp only [exec, execI2cRead]
    split
    · exact ends ((memRead_failsWith ..).deliver.mono (by decide))
    · exact illegal (by decide)
  case i2cWrite =>
    simp only [exec, execI2cWrite]
    split
    · exact ends ((memWrite_failsWith ..).mono (by decide))
    · exact illegal (by decide)
  case initializeGpio =>
    simp only [exec, execInitialize]
    split
    · exact illegal (by decide)
    · exact ends ((initSteps_failsWith ..).mono (by decide))
  case acknowledgeInterrupts =>
    refine ends ?_
    split
    · exact .err (by decide) _
    · exact (gpioAcknowledge_failsWith ..).mono (by decide)
  case setDate => exact ends (memWrite_failsWith ..)
  case readDate => exact ends ((memRead_failsWith ..).andThen fun _ _ => .ok () _)
  case enableOutput | disableOutput | setFrequency => exact ends (writeControl_failsWith ..)
  case writeMemory =>
    refine ends ?_
    split
    · exact (memWrite_failsWith ..).mono (by decide)
    · exact .err (by decide) _
  case readMemory =>
    refine ends ?_
    split
    · exact (memRead_failsWith ..).deliver.mono (by decide)
    · exact .err (by decide) _
  case setPinDirection | setPinPolarity | setInterruptOnPin | setPinInterruptDefault | setPinInterruptType |
      setPinPullup | writePin => exact ends (pinSet_failsWith ..)
  case getPinDirection | getPinPolarity | getInterruptOnPin | getPinInterruptDefault | getPinInterruptType |
      getPinPullup | readPin => exact ends (pinGet_failsWith ..)
  case setPortDirection | setPortPolarity | setInterruptOnPort | setInterruptDefaults | setInterruptType |
      setPortPullups | writePort => exact ends (portWrite_failsWith ..)
  case getPortDirection | getPortPolarity | getInterruptOnPort | getInterruptDefaults | getInterruptType |
      getPortPullups | readInterruptStatus | readInterruptCapture | readPort | readOutputLatch =>
    exact ends (portRead_failsWith ..)

end Sys2Proof.Machine
end
